-- ==== Sys2Proof/Word.lean ====
section
/-! DEFINITION. The bit-vector types of the block (00_scope.md R10, R11): every value is unsigned and bit 0 is
the least significant bit. -/

namespace Sys2Proof

/-- One bit: register-select, enable-strobe, backlight. -/
abbrev Bit := BitVec 1

/-- A 4-bit half of a byte (R19). -/
abbrev Nibble := BitVec 4

/-- A logical byte or an output byte (R19). -/
abbrev Byte := BitVec 8

/-- The 16-bit argument of a request, and a duration in microseconds (R10, R72). -/
abbrev Arg := BitVec 16

/-- A 7-bit device address of the two-wire bus (R7, `ADDR_W`). -/
abbrev DevAddr := BitVec 7

/-- A request word `req[19:0]` (R70). -/
abbrev Request := BitVec 20

end Sys2Proof
end

