-- ==== Sys2Proof/Syntax.lean ====
section
/-! DEFINITION. The operations of the block, one constructor per row of spec/opcode_table.json. A request
constructor carries all 17 bits below `op`, the ignored ones too, because the latches take them all (R21). -/

namespace Sys2Proof

/-- The ten operations (30_encoding.md R71, R77, R78). -/
inductive Instr where
  /-- `WRCMD c, bl`; `ign` is the ignored `arg[15:8]` (R72, R108). -/
  | wrcmd (bl : Bit) (ign : Byte) (c : Byte)
  /-- `WRDATA d, bl`; `ign` is the ignored `arg[15:8]` (R72, R110). -/
  | wrdata (bl : Bit) (ign : Byte) (d : Byte)
  /-- `BLON`; `bl` and `arg` are ignored (R72, R130). -/
  | blon (bl : Bit) (arg : Arg)
  /-- `BLOFF`; `bl` and `arg` are ignored (R72, R133). -/
  | bloff (bl : Bit) (arg : Arg)
  /-- `DELAY t`; `bl` is ignored (R72, R136). -/
  | delay (bl : Bit) (t : Arg)
  /-- Reserved operation code 5 (R78, R174). -/
  | rsvd5 (bl : Bit) (arg : Arg)
  /-- Reserved operation code 6 (R78, R174). -/
  | rsvd6 (bl : Bit) (arg : Arg)
  /-- Reserved operation code 7 (R78, R174). -/
  | rsvd7 (bl : Bit) (arg : Arg)
  /-- `WRINIT n`, issued only by the sequencer (R77, R112). -/
  | wrinit (n : Nibble)
  /-- `PORSEQ lines`, started by the release of reset (R77, R145). -/
  | porseq (lines : BitVec 3)
deriving DecidableEq, Repr

/-- The operations a client can request, those with an operation code (R71, R77, R78). -/
def Instr.requestable : Instr → Bool
  | .wrcmd .. | .wrdata .. | .blon .. | .bloff .. | .delay .. => true
  | .rsvd5 .. | .rsvd6 .. | .rsvd7 .. => true
  | .wrinit _ | .porseq _ => false

end Sys2Proof
end

