-- ==== Sys2Proof/WellFormed.lean ====
section
/-! DEFINITION. Which terms of Instr are operations of the block. Every operand value of a request is legal
(30_encoding.md R80, R175); the line count of PORSEQ is 1 to 4 (R82, 10_state.md R30). -/

namespace Sys2Proof

/-- A legal `LINESQ` (R30: "1 to 4 after the clamp"). -/
def legalLines (l : BitVec 3) : Bool := decide (1 ≤ l.toNat) && decide (l.toNat ≤ 4)

/-- The well-formedness check: only PORSEQ has an operand that can be illegal (R82). -/
def Instr.wellFormed : Instr → Bool
  | .porseq lines => legalLines lines
  | .wrcmd .. | .wrdata .. | .blon .. | .bloff .. | .delay .. => true
  | .rsvd5 .. | .rsvd6 .. | .rsvd7 .. => true
  | .wrinit _ => true

/-- The canonical forms, those with 0 in every ignored bit (R82). The block takes the others all the same. -/
def Instr.canonical : Instr → Bool
  | .wrcmd _ ign _ | .wrdata _ ign _ => ign == 0
  | .blon bl arg | .bloff bl arg | .rsvd5 bl arg | .rsvd6 bl arg | .rsvd7 bl arg => bl == 0 && arg == 0
  | .delay bl _ => bl == 0
  | .wrinit _ | .porseq _ => true

end Sys2Proof
end

