-- ==== Sys2Proof/Decode.lean ====
section
/-! DEFINITION. The request decoder, total on all 2^20 words (30_encoding.md R70 to R73), and after it the
encoder. The two internal operations have no request code (R77); the table's numbering of their operands is read
by `decodeWord` (log 13). -/

namespace Sys2Proof

/-- Field `op`, `req[19:17]` (R70). -/
def Request.op (w : Request) : BitVec 3 := w.extractLsb' 17 3

/-- Field `bl`, `req[16]` (R70). -/
def Request.bl (w : Request) : Bit := w.extractLsb' 16 1

/-- Field `arg`, `req[15:0]` (R70). -/
def Request.arg (w : Request) : Arg := w.extractLsb' 0 16

/-- `arg[7:0]`, the logical byte of WRCMD and WRDATA (R72). -/
def argByte (a : Arg) : Byte := a.extractLsb' 0 8

/-- `arg[15:8]`, which WRCMD and WRDATA ignore (R72). -/
def argIgnored (a : Arg) : Byte := a.extractLsb' 8 8

/-- Decoding a request word, decided by `req[19:17]` alone (R71, R73). The last arm is code 7: three bits have
no other value. -/
def decodeRequest (w : Request) : Instr :=
  match (Request.op w).toNat with
  | 0 => .wrcmd (Request.bl w) (argIgnored (Request.arg w)) (argByte (Request.arg w))
  | 1 => .wrdata (Request.bl w) (argIgnored (Request.arg w)) (argByte (Request.arg w))
  | 2 => .blon (Request.bl w) (Request.arg w)
  | 3 => .bloff (Request.bl w) (Request.arg w)
  | 4 => .delay (Request.bl w) (Request.arg w)
  | 5 => .rsvd5 (Request.bl w) (Request.arg w)
  | 6 => .rsvd6 (Request.bl w) (Request.arg w)
  | _ => .rsvd7 (Request.bl w) (Request.arg w)

/-- Why a number is no word of the operation table. -/
inductive DecodeError where
  /-- A number with a bit above bit 19 set is no request word (R70). Safe. -/
  | notARequestWord
  /-- WRINIT's operand is a nibble, 0 to 15 (R113). Safe. -/
  | notANibble
  /-- PORSEQ's operand is a line count, 1 to 4 (R82). Safe. -/
  | notALineCount
  /-- No row of the table has this many bits. Safe. -/
  | noSuchWidth
deriving DecidableEq, Repr

/-- Which numbering of the operation table a width names: 3 bits PORSEQ's operand, 4 or 8 bits WRINIT's operand,
9 bits or more a request word. DESIGN CHOICE (log 13): the internal rows have operands and no code (R77). -/
inductive TableFormat where
  /-- Format RESET of the table. -/
  | reset
  /-- Format INTERNAL of the table. -/
  | internal
  /-- Format REQ20 of the table. -/
  | request
  /-- No row. -/
  | none
deriving DecidableEq, Repr

/-- The format of a width (log 13). -/
def TableFormat.ofWidth (nbits : Nat) : TableFormat :=
  if nbits = 3 then .reset
  else if nbits = 4 ∨ nbits = 8 then .internal
  else if 9 ≤ nbits then .request
  else .none

/-- The decoder on the table's numbering, rejecting by name. -/
def decodeWord (nbits w : Nat) : Except DecodeError Instr :=
  match TableFormat.ofWidth nbits with
  | .reset => if legalLines (BitVec.ofNat 3 w) && decide (w < 8) then .ok (.porseq (BitVec.ofNat 3 w)) else .error .notALineCount
  | .internal => if w < 16 then .ok (.wrinit (BitVec.ofNat 4 w)) else .error .notANibble
  | .request => if w < 2 ^ 20 then .ok (decodeRequest (BitVec.ofNat 20 w)) else .error .notARequestWord
  | .none => .error .noSuchWidth

/-- The instruction the decoder reads from a word of the operation table. -/
def decodeTableWord (nbits w : Nat) : Option Instr :=
  match decodeWord nbits w with
  | .ok i => some i
  | .error _ => none

/-- A request word from its fields (R70). -/
def requestWord (op : BitVec 3) (bl : Bit) (arg : Arg) : Request := op ++ bl ++ arg

/-- The encoder: the request word of an operation, none for the two that have no code (R71, R77, R78, R82). -/
def encode : Instr → Option Request
  | .wrcmd bl ign c => some (requestWord 0 bl (ign ++ c))
  | .wrdata bl ign d => some (requestWord 1 bl (ign ++ d))
  | .blon bl arg => some (requestWord 2 bl arg)
  | .bloff bl arg => some (requestWord 3 bl arg)
  | .delay bl t => some (requestWord 4 bl t)
  | .rsvd5 bl arg => some (requestWord 5 bl arg)
  | .rsvd6 bl arg => some (requestWord 6 bl arg)
  | .rsvd7 bl arg => some (requestWord 7 bl arg)
  | .wrinit _ => none
  | .porseq _ => none

end Sys2Proof
end

