-- ==== Sys2Proof/Config.lean ====
section
/-! DEFINITION. The constants the document fixes (00_scope.md R7), the build-time parameters (R8, R9) and the
free values: what the spec calls unspecified (10_state.md R23, R35, R39) and the straps it leaves open (R9, D20). -/

namespace Sys2Proof

/-- Bit position of register-select in the output byte (R7). -/
abbrev RS_BIT : Nat := 0
/-- Bit position of read/write, always 0 (R7, R79). -/
abbrev RW_BIT : Nat := 1
/-- Bit position of the enable-strobe (R7). -/
abbrev E_BIT : Nat := 2
/-- Bit position of the backlight bit (R7). -/
abbrev BL_SHIFT : Nat := 3
/-- Bit position of the nibble's bit 0 (R7). -/
abbrev DATA_SHIFT : Nat := 4
/-- The reset nibble (R7). -/
abbrev NIB_RESET : Nibble := 0x3#4
/-- A command byte of this value or less gets the settling delay (R7, D27). -/
abbrev SETTLE_MAX : Nat := 3

/-- The build-time configuration (R8, R9). It is a field of State so that every statement holds for every
configuration; no step changes it (log 6). Durations are in microseconds. -/
structure Config where
  /-- `T_RST1_US`, gap after the first reset nibble. -/
  tRst1 : Arg
  /-- `T_RST2_US`, gap after the second reset nibble. -/
  tRst2 : Arg
  /-- `T_RST3_US`, gap after the third reset nibble. -/
  tRst3 : Arg
  /-- `T_MODE_US`, gap after the 4-bit-mode nibble. -/
  tMode : Arg
  /-- `T_PWRUP_US`, wait before the first reset nibble. -/
  tPwrup : Arg
  /-- `T_SETTLE_US`, settling delay after a command of value 3 or less. -/
  tSettle : Arg
  /-- `NIB_4BIT`, the 4-bit-mode nibble. -/
  nib4bit : Nibble
  /-- `FS(1)`, the function-set command for one line. -/
  fs1 : Byte
  /-- `FS(2)`. -/
  fs2 : Byte
  /-- `FS(3)`. -/
  fs3 : Byte
  /-- `FS(4)`. -/
  fs4 : Byte
  /-- `BL_POR`, the backlight bit of the sequencer's function-set command. -/
  blPor : Bit
deriving DecidableEq, Repr

/-- What the spec lets a model assume of a configuration: the bounds of R8's third column and `FS(l) > 3` of
R146. The two delays without a bound are left out. -/
abbrev Config.Valid (c : Config) : Prop :=
  5000 ≤ c.tRst1.toNat ∧ 1000 ≤ c.tRst2.toNat ∧ 1000 ≤ c.tRst3.toNat ∧ 2000 ≤ c.tSettle.toNat ∧
  SETTLE_MAX < c.fs1.toNat ∧ SETTLE_MAX < c.fs2.toNat ∧ SETTLE_MAX < c.fs3.toNat ∧ SETTLE_MAX < c.fs4.toNat

/-- The defaults of R8 and R9. PRESUMED (the spec marks `nib4bit` and `fs1` to `fs4` as general knowledge,
the delays and `blPor` as its own choice; log 6): unsafe for a claim that rests on one of these values. -/
def Config.default : Config where
  tRst1 := 5000
  tRst2 := 1000
  tRst3 := 1000
  tMode := 0
  tPwrup := 0
  tSettle := 5000
  nib4bit := 0x2
  fs1 := 0x20
  fs2 := 0x28
  fs3 := 0x28
  fs4 := 0x28
  blPor := 1

/-- The value of `PORT` after draw number `n`: any byte (R35, D22). Uninterpreted; log 3. -/
opaque Config.freePort : Nat → Byte

/-- The value of `OPQ` after draw number `n`: any 3 bits (R23, U11). Uninterpreted; log 2. -/
opaque Config.freeOpq : Nat → BitVec 3

/-- The value of `BLQ` after draw number `n`: any bit (R23, U11). Uninterpreted; log 2. -/
opaque Config.freeBlq : Nat → Bit

/-- The value of `ARGQ` after draw number `n`: any 16 bits (R23, U11). Uninterpreted; log 2. -/
opaque Config.freeArgq : Nat → Arg

/-- The strap `addr_i` of State.reset, parameter `BUS_ADDR`, OPEN (R9, D20). Uninterpreted; log 5. -/
opaque Config.busAddr : DevAddr

/-- The strap `lines_i` of State.reset, parameter `LINES`, an argument (R9, D7). Uninterpreted; log 5. -/
opaque Config.lines : BitVec 3

end Sys2Proof
end

