-- ==== Sys2Proof/Machine/Operands.lean ====
section
/-! DEFINITION. Operand assembly and the nibble packer: the two halves of a logical byte (30_encoding.md R72,
00_scope.md R17), the clamp of the line count (10_state.md R30), FS (R9) and PACK (40_transfer.md R100). -/

namespace Sys2Proof.Machine

/-- `v[7:4]`, the document's `cmd>>4` (R17, R72). -/
def hiNibble (v : Byte) : Nibble := v.extractLsb' 4 4

/-- `v[3:0]`, the document's `cmd&0xF` (R17, R72). -/
def loNibble (v : Byte) : Nibble := v.extractLsb' 0 4

/-- `lines_i` clamped to 1 to 4: 0 becomes 1, and 5, 6, 7 become 4 (R30, U12). -/
def clampLines (l : BitVec 3) : BitVec 3 :=
  if l = 0 then 1 else if 4 < l.toNat then 4 else l

/-- `FS(lines)`, the function-set command (R9, R149). A line count outside 1 to 4, which `LINESQ` never holds,
is read as its clamp (log 15). -/
def functionSet (c : Config) (lines : BitVec 3) : Byte :=
  match (clampLines lines).toNat with
  | 1 => c.fs1
  | 2 => c.fs2
  | 3 => c.fs3
  | _ => c.fs4

/-- The nibble packer `PACK(n, rs, bl, e)` (R100). Bit 1, read/write, is the written 0 (R79). -/
def pack (n : Nibble) (rs bl e : Bit) : Byte :=
  (n.setWidth 8 <<< DATA_SHIFT) ||| (bl.setWidth 8 <<< BL_SHIFT) ||| (e.setWidth 8 <<< E_BIT) |||
    (0#8 <<< RW_BIT) ||| (rs.setWidth 8 <<< RS_BIT)

end Sys2Proof.Machine
end

