-- ==== Sys2Proof/Machine/State.lean ====
section
/-! DEFINITION. The state of LCDT (10_state.md R20), its input ports (60_exceptions.md R190), what lies outside
and is changed by it (R35, R37), its build-time configuration, and the model's own record of inputs and events. -/

namespace Sys2Proof.Machine

/-- The phase register `PH` (R26); its 2-bit code is `Phase.code`. -/
inductive Phase where
  /-- Reset is asserted, or the sequencer is running PORSEQ. -/
  | por
  /-- No operation is in progress; a request can be accepted. -/
  | idle
  /-- An accepted request's micro-program is running. -/
  | busy
  /-- A bus write of PORSEQ failed; nothing until reset. -/
  | fail
deriving DecidableEq, Repr

/-- A response (R74); its 2-bit code is `Response.code`. Code 3 is never produced. -/
inductive Response where
  /-- Every micro-operation of the request completed. -/
  | ok
  /-- A bus write of the request returned `busError`. -/
  | busTransactionError
  /-- The request's `op` is reserved. -/
  | callerContractViolation
deriving DecidableEq, Repr

/-- The HD44780's nibble phase `NPH`: which half the next latched nibble is (R37). -/
inductive NibblePhase where
  /-- The next nibble is the high half of a byte. -/
  | high
  /-- The next nibble is the low half of a byte. -/
  | low
  /-- Either: "a model must treat NPH as unknown" (R37, R39, U1). -/
  | unknown
deriving DecidableEq, Repr

/-- A micro-operation (R16). -/
inductive MicroOp where
  /-- `W(b)`: one bus write of byte `b` to `ADDR`. -/
  | write (b : Byte)
  /-- `S(t)`: one sleep of at least `t` microseconds; nothing when `t` is 0 (R14). -/
  | sleep (t : Arg)
deriving DecidableEq, Repr

/-- What an observer of the ports sees, in order (R6, R16). An event stands in the trace when its outcome is
known (log 10). -/
inductive Event where
  /-- `W(b)`: a bus write to this address answered `success`. -/
  | write (addr : DevAddr) (b : Byte)
  /-- `W(b)!`: a bus write to this address answered `busError`. -/
  | writeFailed (addr : DevAddr) (b : Byte)
  /-- A bus write outstanding when `rst` rose: it "may or may not complete on the bus" (R201). -/
  | writeAbandoned (addr : DevAddr) (b : Byte)
  /-- `S(t)` with `t > 0`: the sleep has ended. -/
  | sleep (t : Arg)
  /-- A sleep outstanding when `rst` rose, "forgotten" (R201). -/
  | sleepAbandoned (t : Arg)
  /-- `Resp(code)`: `rsp_valid` with `rsp_code`. -/
  | resp (r : Response)
deriving DecidableEq, Repr

/-- One thing the outside does at the input ports (R190, log 7). -/
inductive Input where
  /-- The platform drives `rst` to this level (R200). -/
  | rst (level : Bool)
  /-- The platform sets the straps `addr_i` and `lines_i`. -/
  | straps (addr : DevAddr) (lines : BitVec 3)
  /-- The client offers a request: `req_valid` 1 with this `req`. -/
  | offer (w : Request)
  /-- The client no longer offers a request: `req_valid` 0. -/
  | withdraw
  /-- `bw_done` with `bw_err`: the bus primitive answers. -/
  | bwDone (err : Bool)
  /-- `tm_done`: the sleep has ended. -/
  | tmDone
deriving DecidableEq, Repr

/-- The whole machine: plain data. -/
structure State where
  /-- The build-time configuration (R8, R9). -/
  cfg : Config
  /-- `OPQ` (R21). -/
  opq : BitVec 3
  /-- `BLQ` (R21). -/
  blq : Bit
  /-- `ARGQ` (R21). -/
  argq : Arg
  /-- `UPC` (R24). -/
  upc : BitVec 5
  /-- `PH` (R26). -/
  ph : Phase
  /-- `ADDR` (R30). -/
  addr : DevAddr
  /-- `LINESQ` (R30). -/
  linesq : BitVec 3
  /-- Input port `rst` (R200). -/
  rst : Bool
  /-- Strap `addr_i` (R190). -/
  addrI : DevAddr
  /-- Strap `lines_i` (R190). -/
  linesI : BitVec 3
  /-- Input port `req_valid` (R190). -/
  reqValid : Bool
  /-- Input port `req` (R190). -/
  req : Request
  /-- `PORT`, the expander's output latch, outside the block (R35). -/
  port : Byte
  /-- `NPH`, the HD44780's nibble phase, outside the block (R37). -/
  nph : NibblePhase
  /-- What the outside does next, oldest first (log 7). -/
  inputs : List Input
  /-- What an observer has seen, oldest first (log 10). -/
  trace : List Event
  /-- How many free values have been drawn (log 3). -/
  draws : Nat
deriving DecidableEq, Repr

/-- Why a step could end in a fault. There is no such reason: the two errors are answered with a next state
(R170, R172, R174) and a write that is never answered is "stuck, not faulted" (R178; log 14). -/
inductive Fault where
deriving DecidableEq, Repr

/-- Why a step could be refused. -/
inductive Refusal where
  /-- An instruction without a meaning, by its mnemonic. Raised by exec's refused arms only; there is none.
  Safe. -/
  | notModelled (mnemonic : String)
deriving DecidableEq, Repr

/-- The machine at the moment `rst` is released (R39, R202): straps captured, the sequencer at UPC 0. The
straps and the latches hold uninterpreted values (logs 2, 5), the configuration is the default one (log 6). -/
def State.reset : State where
  cfg := Config.default
  opq := Config.freeOpq 0
  blq := Config.freeBlq 0
  argq := Config.freeArgq 0
  upc := 0#5
  ph := .por
  addr := Config.busAddr
  linesq := clampLines Config.lines
  rst := false
  addrI := Config.busAddr
  linesI := Config.lines
  reqValid := false
  req := 0
  port := Config.freePort 0
  nph := .unknown
  inputs := []
  trace := []
  draws := 1

end Sys2Proof.Machine
end

