-- ==== Sys2Proof/Machine/Flags.lean ====
section
/-! DEFINITION. The block has no flags (10_state.md R29). Here stand its one comparison, the codes of phases and
responses, its status outputs (R28), and what the HD44780 makes of the enable line (R36, 20_memory.md R64). -/

namespace Sys2Proof.Machine

/-- The settling test `c <= 3`, unsigned, on the whole byte (R17 item f, R109, D27). -/
def needsSettling (c : Byte) : Bool := decide (c.toNat ≤ SETTLE_MAX)

/-- The 2-bit value of a phase (R26). -/
def Phase.code : Phase → BitVec 2
  | .por => 0
  | .idle => 1
  | .busy => 2
  | .fail => 3

/-- The 2-bit response code (R74). -/
def Response.code : Response → BitVec 2
  | .ok => 0
  | .busTransactionError => 1
  | .callerContractViolation => 2

/-- Status output `INITD`: 1 exactly in PH_IDLE and PH_BUSY (R28). -/
def State.initd (s : State) : Bool := s.ph == .idle || s.ph == .busy

/-- Status output `FAILD`: 1 exactly in PH_FAIL (R28). -/
def State.faild (s : State) : Bool := s.ph == .fail

/-- Output `req_ready`: 1 exactly in PH_IDLE, and 0 while reset is asserted (R190, R201). -/
def State.reqReady (s : State) : Bool := !s.rst && s.ph == .idle

/-- What the HD44780 latches when the output byte changes from `old` to `new` (R36, R64). -/
inductive Latched where
  /-- No falling edge of the enable line: nothing. -/
  | nothing
  /-- A falling edge with every other bit held: register-select and nibble. -/
  | nibble (rs : Bit) (n : Nibble)
  /-- A falling edge while other bits change: unspecified (U10). -/
  | unspecified
deriving DecidableEq, Repr

/-- The enable-strobe bit of an output byte (R75). -/
def enableBit (b : Byte) : Bool := b.getLsbD E_BIT

/-- The latch rule (R64): a falling edge of bit 2 latches `(b[0], b[7:4])` when nothing else changes. -/
def latchAt (old new : Byte) : Latched :=
  if enableBit old && !enableBit new then
    if old ^^^ new = 0x04#8 then .nibble (new.extractLsb' RS_BIT 1) (new.extractLsb' DATA_SHIFT 4) else .unspecified
  else .nothing

/-- The latch view of the successful writes `ps`, from `PORT` value `p` on (R64), with the positions where
nothing is latched left out. -/
def latchView (p : Byte) : List Byte → List Latched
  | [] => []
  | b :: ps =>
    match latchAt p b with
    | .nothing => latchView b ps
    | l => l :: latchView b ps

/-- The nibble phase after one latch (R37): each latched nibble is one half, and an unspecified latch may be
none (U10). DEDUCED (log 4). -/
def NibblePhase.after (q : NibblePhase) (l : Latched) : NibblePhase :=
  match q with
  | .unknown => .unknown
  | .high =>
    match l with
    | .nothing => .high
    | .nibble _ _ => .low
    | .unspecified => .unknown
  | .low =>
    match l with
    | .nothing => .low
    | .nibble _ _ => .high
    | .unspecified => .unknown

/-- The nibble phase after a list of successful writes, from `PORT` value `p` on. -/
def NibblePhase.afterWrites (q : NibblePhase) (p : Byte) : List Byte → NibblePhase
  | [] => q
  | b :: ps => (q.after (latchAt p b)).afterWrites b ps

end Sys2Proof.Machine
end

