-- ==== Sys2Proof/Machine/Programs.lean ====
section
/-! DEFINITION. The micro-programs (00_scope.md R16): STROBE and XFER (40_transfer.md R102, R104), one program
per operation, and which program the phase and the latches select (30_encoding.md R84). -/

namespace Sys2Proof.Machine

/-- `STROBE(n, rs, bl)`: enable set, then the same byte with it cleared (R102). -/
def strobe (n : Nibble) (rs bl : Bit) : List MicroOp :=
  [.write (pack n rs bl 1), .write (pack n rs bl 0)]

/-- `XFER(v, rs, bl)`: two strobed nibbles, high nibble first (R104, R52). -/
def xfer (v : Byte) (rs bl : Bit) : List MicroOp :=
  strobe (hiNibble v) rs bl ++ strobe (loNibble v) rs bl

/-- `Prog(WRCMD, bl, c)` (R108). -/
def progWrcmd (c : Config) (bl : Bit) (v : Byte) : List MicroOp :=
  xfer v 0 bl ++ if needsSettling v then [.sleep c.tSettle] else []

/-- `Prog(WRDATA, bl, d)` (R110). -/
def progWrdata (bl : Bit) (d : Byte) : List MicroOp := xfer d 1 bl

/-- `Prog(BLON)` (R130). -/
def progBlon : List MicroOp := [.write (pack 0 0 1 0)]

/-- `Prog(BLOFF)` (R133). -/
def progBloff : List MicroOp := [.write (pack 0 0 0 0)]

/-- `Prog(DELAY, t)` (R136). -/
def progDelay (t : Arg) : List MicroOp := [.sleep t]

/-- `WRINIT(n)`: one strobe pair with register-select 0 and backlight 0 (R112). -/
def progWrinit (n : Nibble) : List MicroOp := strobe n 0 0

/-- `PORSEQ`, the list form of R146. -/
def progPorseq (c : Config) (lines : BitVec 3) : List MicroOp :=
  [.sleep c.tPwrup] ++ progWrinit NIB_RESET ++ [.sleep c.tRst1] ++ progWrinit NIB_RESET ++ [.sleep c.tRst2] ++
    progWrinit NIB_RESET ++ [.sleep c.tRst3] ++ progWrinit c.nib4bit ++ [.sleep c.tMode] ++
    progWrcmd c c.blPor (functionSet c lines)

/-- The micro-program of an accepted request, built from the latches alone (R84). A reserved code has none. -/
def requestProgram (c : Config) (opq : BitVec 3) (blq : Bit) (argq : Arg) : List MicroOp :=
  match opq.toNat with
  | 0 => progWrcmd c blq (argByte argq)
  | 1 => progWrdata blq (argByte argq)
  | 2 => progBlon
  | 3 => progBloff
  | 4 => progDelay argq
  | _ => []

/-- The micro-program in progress: the request's in PH_BUSY, PORSEQ in PH_POR, none otherwise (R84, R85). -/
def State.program (s : State) : List MicroOp :=
  match s.ph with
  | .busy => requestProgram s.cfg s.opq s.blq s.argq
  | .por => progPorseq s.cfg s.linesq
  | .idle => []
  | .fail => []

/-- The engine is at work: reset is not asserted and the phase is PH_BUSY or PH_POR (R38, R201). -/
def State.running (s : State) : Bool := !s.rst && (s.ph == .busy || s.ph == .por)

/-- The micro-operation being performed, the one at `UPC` (R24). -/
def State.current (s : State) : Option MicroOp :=
  if s.running then s.program[s.upc.toNat]? else none

/-- Output `bw_valid`: a bus write is outstanding (R190, R192). -/
def State.bwValid (s : State) : Bool :=
  match s.current with
  | some (.write _) => true
  | some (.sleep _) => false
  | none => false

/-- Outputs `bw_addr` and `bw_data`: `ADDR` and the output byte of the outstanding write (R190). -/
def State.bwOut (s : State) : Option (DevAddr × Byte) :=
  match s.current with
  | some (.write b) => some (s.addr, b)
  | some (.sleep _) => none
  | none => none

/-- Outputs `tm_start` and `tm_us`: the duration of the outstanding sleep; a sleep of 0 is no event (R14). -/
def State.tmOut (s : State) : Option Arg :=
  match s.current with
  | some (.write _) => none
  | some (.sleep t) => if t = 0#16 then none else some t
  | none => none

end Sys2Proof.Machine
end

