-- ==== Sys2Proof/Machine/Ops.lean ====
section
/-! DEFINITION. The shared operations: what ends a micro-operation, raising BusTransactionError
(60_exceptions.md R172), reset (70_reset_and_hazards.md R200 to R202), one input at the ports, the engine
(30_encoding.md R85), accepting a request (60_exceptions.md R191), and where the next operation comes from. -/

namespace Sys2Proof.Machine

/-! ## Responses and the end of a micro-program -/

/-- `Resp(r)` to the client (R15, R74). -/
def respond (r : Response) (s : State) : State := { s with trace := s.trace ++ [.resp r] }

/-- A micro-program ran past its last micro-operation (R27): `Resp(0)` and PH_IDLE in PH_BUSY, PH_IDLE without a
response in PH_POR, where the nibble phase becomes known (R37, R151; log 4). -/
def finish (s : State) : State :=
  match s.ph with
  | .busy => respond .ok { s with ph := .idle, upc := 0#5 }
  | .por => { s with ph := .idle, upc := 0#5, nph := .high }
  | .idle => s
  | .fail => s

/-- `raise BusTransactionError`, the block's one error entry (R172, R179, R151): the rest of the micro-program is
dropped and `UPC` is 0; a request is answered `Resp(1)` in PH_IDLE, PORSEQ ends in PH_FAIL without a response. -/
def raiseBusError (s : State) : State :=
  match s.ph with
  | .busy => respond .busTransactionError { s with ph := .idle, upc := 0#5 }
  | .por => { s with ph := .fail, upc := 0#5 }
  | .idle => s
  | .fail => s

/-! ## The end of one micro-operation -/

/-- `W(b)` answered `success`: `PORT` takes the byte, the HD44780 may latch a nibble, `UPC` moves on (R25, R35,
R36). DESIGN CHOICE (log 19): so too after a failed write, as R35 says of any `W(b)`, although U1 of
93_implementation_defined.md makes `PORT` known again only through a reset and PORSEQ. -/
def writeSucceeded (b : Byte) (s : State) : State :=
  { s with port := b, nph := s.nph.after (latchAt s.port b), trace := s.trace ++ [.write s.addr b],
           upc := s.upc + 1#5 }

/-- `W(b)` answered `busError`: `PORT` is any byte and the nibble phase unknown (R35, R37, log 3), and the error
is raised. -/
def writeFailed (b : Byte) (s : State) : State :=
  raiseBusError { s with port := Config.freePort s.draws, nph := .unknown, draws := s.draws + 1,
                         trace := s.trace ++ [.writeFailed s.addr b] }

/-- `S(t)` has ended: one event, and `UPC` moves on (R14, R25). -/
def sleepEnded (t : Arg) (s : State) : State :=
  { s with trace := s.trace ++ [.sleep t], upc := s.upc + 1#5 }

/-- `S(0)` does nothing and produces no event; `UPC` moves on (R14, R85). -/
def skipSleep (s : State) : State := { s with upc := s.upc + 1#5 }

/-! ## Reset -/

/-- What reset does to the micro-operation in progress: it is abandoned (R201, log 10). A sleep of 0 is no
event (R14). -/
def abandon (s : State) : State :=
  match s.current with
  | some (.write b) => { s with trace := s.trace ++ [.writeAbandoned s.addr b] }
  | some (.sleep t) => if t = 0#16 then s else { s with trace := s.trace ++ [.sleepAbandoned t] }
  | none => s

/-- `rst` rises (R200, R201): PH_POR, UPC 0, no response; the latches, `PORT` and the nibble phase become
unspecified (R39, U1, U14; logs 2, 3). `ADDR` and `LINESQ` keep their values until the release. -/
def assertReset (s : State) : State :=
  { abandon s with
      rst := true, ph := .por, upc := 0#5,
      opq := Config.freeOpq s.draws, blq := Config.freeBlq s.draws, argq := Config.freeArgq s.draws,
      port := Config.freePort s.draws, nph := .unknown, draws := s.draws + 1 }

/-- `rst` falls (R202): the straps are captured and PORSEQ starts at UPC 0. -/
def releaseReset (s : State) : State :=
  { s with rst := false, ph := .por, upc := 0#5, addr := s.addrI, linesq := clampLines s.linesI }

/-! ## One input at the ports -/

/-- `bw_done`: it ends the outstanding write and is ignored when there is none (R192). DESIGN CHOICE (log 20): the
port carries no tag, so an answer is the outstanding write's, also one meant for a write that reset cut (R201). -/
def answerWrite (err : Bool) (s : State) : State :=
  match s.current with
  | some (.write b) => if err then writeFailed b s else writeSucceeded b s
  | some (.sleep _) => s
  | none => s

/-- `tm_done`: it ends the outstanding sleep and is ignored when there is none (R192). DESIGN CHOICE (log 20), as for
`bw_done`: it is the outstanding sleep's, also one meant for a sleep that reset cut (R201). -/
def endSleep (s : State) : State :=
  match s.current with
  | some (.write _) => s
  | some (.sleep t) => if t = 0#16 then s else sleepEnded t s
  | none => s

/-- What one input does (R190 to R192, R200). A level that `rst` already has is no event. -/
def onInput (i : Input) (s : State) : State :=
  match i with
  | .rst true => if s.rst then s else assertReset s
  | .rst false => if s.rst then releaseReset s else s
  | .straps a l => { s with addrI := a, linesI := l }
  | .offer w => { s with reqValid := true, req := w }
  | .withdraw => { s with reqValid := false }
  | .bwDone err => answerWrite err s
  | .tmDone => endSleep s

/-- The next input is taken from the list; with none the block waits, unchanged (R178, R188). -/
def takeInput (s : State) : State :=
  match s.inputs with
  | [] => s
  | i :: rest => onInput i { s with inputs := rest }

/-! ## The engine -/

/-- The moves the engine makes without waiting: sleeps of 0 at `UPC`, up to index `stop`; `fuel` bounds them. -/
def skipSleeps (stop : Nat) : Nat → State → State
  | 0, s => s
  | fuel + 1, s =>
    if s.upc.toNat < stop ∧ s.current = some (.sleep 0#16) then skipSleeps stop fuel (skipSleep s) else s

/-- The engine is at work and `UPC` has run past the last micro-operation. -/
def State.atEnd (s : State) : Bool := s.running && decide (s.program.length ≤ s.upc.toNat)

/-- Everything the engine does before it has to wait for an input (R85): zero sleeps, then the end. -/
def settleTo (stop : Nat) (s : State) : State :=
  let s' := skipSleeps stop s.program.length s
  if s'.atEnd then finish s' else s'

/-- A micro-operation below index `stop` is still owed (R38). -/
def State.owes (stop : Nat) (s : State) : Bool := s.running && decide (s.upc.toNat < stop)

/-- The engine (R85) from `UPC` up to index `stop`, fed with inputs: it goes on until nothing below `stop` is
owed, or until it waits for an input that has not come. -/
def runInputs (stop : Nat) : List Input → State → State
  | [], s => settleTo stop s
  | i :: rest, s =>
    let s' := settleTo stop s
    if s'.owes stop then runInputs stop rest (onInput i { s' with inputs := rest }) else s'

/-- The engine to index `stop` on the state's own inputs. -/
def runTo (stop : Nat) (s : State) : State := runInputs stop s.inputs s

/-- The engine to the end of the micro-program in progress. -/
def resume (s : State) : State := runTo s.program.length s

/-! ## Requests -/

/-- The latches take the request, the offer is used up (R21, R191; log 9). -/
def latchRequest (op : BitVec 3) (bl : Bit) (arg : Arg) (s : State) : State :=
  { s with opq := op, blq := bl, argq := arg, reqValid := false }

/-- Acceptance of a request with a defined `op` (R27): latches, PH_BUSY, UPC 0. -/
def acceptRequest (op : BitVec 3) (bl : Bit) (arg : Arg) (s : State) : State :=
  { latchRequest op bl arg s with ph := .busy, upc := 0#5 }

/-- A request: accepted in PH_IDLE and run (R85, R191). In any other phase it waits and nothing happens (R188,
D14; log 11). -/
def runRequest (op : BitVec 3) (bl : Bit) (arg : Arg) (s : State) : State :=
  if s.reqReady then resume (acceptRequest op bl arg s) else s

/-- A reserved request: CallerContractViolation (R174). The latches are written, `Resp(2)`, nothing else. -/
def rejectRequest (op : BitVec 3) (bl : Bit) (arg : Arg) (s : State) : State :=
  if s.reqReady then respond .callerContractViolation (latchRequest op bl arg s) else s

/-! ## Where the next operation comes from -/

/-- The operation the sequencer starts at this UPC (R77, R146): PORSEQ at 0, WRINIT at 1, 4, 7 and 10. -/
def sequencerIssues (s : State) : Option Instr :=
  if s.running && s.ph == .por then
    match s.upc.toNat with
    | 0 => some (.porseq s.linesq)
    | 1 => some (.wrinit NIB_RESET)
    | 4 => some (.wrinit NIB_RESET)
    | 7 => some (.wrinit NIB_RESET)
    | 10 => some (.wrinit s.cfg.nib4bit)
    | _ => none
  else none

/-- An operation of the sequencer: run to index `UPC + len` where the sequencer starts it; it cannot be had
anywhere else (R77, R183; log 11). -/
def runInternal (i : Instr) (len : Nat) (s : State) : State :=
  if sequencerIssues s = some i then runTo (s.upc.toNat + len) s else s

/-- The operation the next step runs: the offered request in PH_IDLE (R191), the sequencer's in PH_POR. -/
def fetch (s : State) : Option Instr :=
  if s.reqReady then
    if s.reqValid then some (decodeRequest s.req) else none
  else sequencerIssues s

/-- A step that starts no operation: the engine goes on, or the next input arrives. -/
def idleStep (s : State) : State := if s.running then resume s else takeInput s

/-! ## Placing an operation where the next step fetches it (log 1, 13) -/

/-- A request offered in PH_IDLE. -/
def placeRequest (w : Request) (s : State) : State :=
  { s with rst := false, ph := .idle, upc := 0#5, reqValid := true, req := w }

/-- The sequencer at a WRINIT of this nibble: the first reset nibble, or the 4-bit-mode nibble of a
configuration that has it. -/
def placeWrinit (n : Nibble) (s : State) : State :=
  if n = NIB_RESET then { s with rst := false, ph := .por, upc := 1 }
  else { s with rst := false, ph := .por, upc := 10, cfg := { s.cfg with nib4bit := n } }

/-- Reset released with this line count on the strap. -/
def placePorseq (lines : BitVec 3) (s : State) : State := releaseReset { s with linesI := lines }

/-- The word of the operation table placed where the next step fetches it. -/
def placeWord (nbits w : Nat) (s : State) : State :=
  match TableFormat.ofWidth nbits with
  | .reset => placePorseq (BitVec.ofNat 3 w) s
  | .internal => placeWrinit (BitVec.ofNat 4 w) s
  | .request => placeRequest (BitVec.ofNat 20 w) s
  | .none => s

end Sys2Proof.Machine
end

