-- ==== Sys2Proof/Machine/Backlight.lean ====
section
/-! DEFINITION. The operations that move no logical byte (41_backlight_delay.md): BLON, BLOFF, DELAY. -/

namespace Sys2Proof.Machine

/-- `BLON` (R130): one write of 0x08. -/
def execBlon (bl : Bit) (arg : Arg) (s : State) : Host.Outcome State Fault Refusal :=
  .next (runRequest 2 bl arg s)

/-- `BLOFF` (R133): one write of 0x00. -/
def execBloff (bl : Bit) (arg : Arg) (s : State) : Host.Outcome State Fault Refusal :=
  .next (runRequest 3 bl arg s)

/-- `DELAY t` (R136): one sleep, none for `t = 0`. -/
def execDelay (bl : Bit) (t : Arg) (s : State) : Host.Outcome State Fault Refusal :=
  .next (runRequest 4 bl t s)

end Sys2Proof.Machine
end

