-- ==== Sys2Proof/Machine/Reserved.lean ====
section
/-! DEFINITION. The reserved operation codes 5, 6, 7 (30_encoding.md R78, 60_exceptions.md R174). -/

namespace Sys2Proof.Machine

/-- Reserved code 5: CallerContractViolation, `Resp(2)` (R174). -/
def execRsvd5 (bl : Bit) (arg : Arg) (s : State) : Host.Outcome State Fault Refusal :=
  .next (rejectRequest 5 bl arg s)

/-- Reserved code 6: CallerContractViolation, `Resp(2)` (R174). -/
def execRsvd6 (bl : Bit) (arg : Arg) (s : State) : Host.Outcome State Fault Refusal :=
  .next (rejectRequest 6 bl arg s)

/-- Reserved code 7: CallerContractViolation, `Resp(2)` (R174). -/
def execRsvd7 (bl : Bit) (arg : Arg) (s : State) : Host.Outcome State Fault Refusal :=
  .next (rejectRequest 7 bl arg s)

end Sys2Proof.Machine
end

