-- ==== Sys2Proof/Machine/Sequencer.lean ====
section
/-! DEFINITION. The power-on reset sequencer (42_por_sequencer.md): PORSEQ. -/

namespace Sys2Proof.Machine

/-- `PORSEQ lines` (R146): the whole micro-program from UPC 0 to its end in PH_IDLE, or in PH_FAIL (R151). -/
def execPorseq (lines : BitVec 3) (s : State) : Host.Outcome State Fault Refusal :=
  .next (runInternal (.porseq lines) (progPorseq s.cfg lines).length s)

end Sys2Proof.Machine
end

