-- ==== Sys2Proof/Machine/Transfer.lean ====
section
/-! DEFINITION. The transfer family (40_transfer.md): WRCMD, WRDATA, WRINIT. -/

namespace Sys2Proof.Machine

/-- `WRCMD c, bl` (R108): XFER with register-select 0, then the settling sleep for `c <= 3`. -/
def execWrcmd (bl : Bit) (ign c : Byte) (s : State) : Host.Outcome State Fault Refusal :=
  .next (runRequest 0 bl (ign ++ c) s)

/-- `WRDATA d, bl` (R110): XFER with register-select 1. -/
def execWrdata (bl : Bit) (ign d : Byte) (s : State) : Host.Outcome State Fault Refusal :=
  .next (runRequest 1 bl (ign ++ d) s)

/-- `WRINIT n` (R112): the two micro-operations of one strobe pair, inside PORSEQ. -/
def execWrinit (n : Nibble) (s : State) : Host.Outcome State Fault Refusal :=
  .next (runInternal (.wrinit n) (progWrinit n).length s)

end Sys2Proof.Machine
end

