-- ==== Sys2Proof/Machine/Dispatch.lean ====
section
/-! DEFINITION. One arm per operation. -/

namespace Sys2Proof.Machine

def exec (i : Instr) (s : State) : Host.Outcome State Fault Refusal :=
  match i with
  | .wrcmd bl ign c => Sys2Proof.Machine.execWrcmd bl ign c s
  | .wrdata bl ign d => Sys2Proof.Machine.execWrdata bl ign d s
  | .blon bl arg => Sys2Proof.Machine.execBlon bl arg s
  | .bloff bl arg => Sys2Proof.Machine.execBloff bl arg s
  | .delay bl t => Sys2Proof.Machine.execDelay bl t s
  | .rsvd5 bl arg => Sys2Proof.Machine.execRsvd5 bl arg s
  | .rsvd6 bl arg => Sys2Proof.Machine.execRsvd6 bl arg s
  | .rsvd7 bl arg => Sys2Proof.Machine.execRsvd7 bl arg s
  | .wrinit n => Sys2Proof.Machine.execWrinit n s
  | .porseq lines => Sys2Proof.Machine.execPorseq lines s

end Sys2Proof.Machine
end

