-- ==== Sys2Proof/Machine/Step.lean ====
section
/-! DEFINITION. One step: the operation at hand is run, or the engine goes on, or the next input arrives. -/

namespace Sys2Proof.Machine

/-- One step of the machine (log 8). -/
def step (s : State) : Host.Outcome State Fault Refusal :=
  match fetch s with
  | some i => exec i s
  | none => .next (idleStep s)

/-- `s` with the word of the operation table placed where the next step fetches it (logs 1, 13). -/
def State.withFetchWord (s : State) (nbits w : Nat) : State := placeWord nbits w s

end Sys2Proof.Machine
end

