-- ==== Sys2Proof/Safety.lean ====
section
/-! DEFINITION. The terms in which claims are made: the invariants of 10_state.md R41, the events and answers of a
micro-program in which no write fails (00_scope.md R16), and what an observer counts in a trace. -/

namespace Sys2Proof.Machine

/-! ## A micro-program without a failure -/

/-- The trace of a micro-program in which no write fails (R16): a sleep of 0 makes no event (R14). -/
def eventsOf (addr : DevAddr) : List MicroOp → List Event
  | [] => []
  | .write b :: ops => .write addr b :: eventsOf addr ops
  | .sleep t :: ops => if t = 0#16 then eventsOf addr ops else .sleep t :: eventsOf addr ops

/-- The inputs with which a micro-program runs without a failure: `success` for every write, an end for every
sleep that is not 0 (R18). -/
def answersOf : List MicroOp → List Input
  | [] => []
  | .write _ :: ops => .bwDone false :: answersOf ops
  | .sleep t :: ops => if t = 0#16 then answersOf ops else .tmDone :: answersOf ops

/-- The bytes a micro-program writes, in order. -/
def writesOf : List MicroOp → List Byte
  | [] => []
  | .write b :: ops => b :: writesOf ops
  | .sleep _ :: ops => writesOf ops

/-- `PORT` after successful writes of these bytes (R35). -/
def portAfter (p : Byte) : List Byte → Byte
  | [] => p
  | b :: bs => portAfter b bs

/-- The event that the rise of `rst` leaves of the micro-operation it cuts (R201, log 10). -/
def cutByReset (addr : DevAddr) : MicroOp → List Event
  | .write b => [.writeAbandoned addr b]
  | .sleep t => [.sleepAbandoned t]

/-! ## What an observer counts -/

/-- The byte of a write event, whatever became of the write. -/
def Event.byte : Event → Option Byte
  | .write _ b => some b
  | .writeFailed _ b => some b
  | .writeAbandoned _ b => some b
  | .sleep _ => none
  | .sleepAbandoned _ => none
  | .resp _ => none

/-- The device address of a write event. -/
def Event.device : Event → Option DevAddr
  | .write a _ => some a
  | .writeFailed a _ => some a
  | .writeAbandoned a _ => some a
  | .sleep _ => none
  | .sleepAbandoned _ => none
  | .resp _ => none

/-- The event is a response. -/
def Event.isResponse : Event → Bool
  | .resp _ => true
  | .write .. | .writeFailed .. | .writeAbandoned .. | .sleep _ | .sleepAbandoned _ => false

/-! ## Invariants -/

/-- The control state is one the block can be in between two steps (R24, R27, R30, R41 items a and d). -/
structure ControlInv (s : State) : Prop where
  /-- R41 (a). -/
  upc_zero : s.ph = .idle ∨ s.ph = .fail → s.upc = 0#5
  /-- R201. -/
  in_reset : s.rst = true → s.ph = .por ∧ s.upc = 0#5
  /-- R27: only a defined operation code reaches PH_BUSY. -/
  busy_defined : s.ph = .busy → s.opq.toNat ≤ 4
  /-- R30: 1 to 4 after the clamp. -/
  lines_legal : legalLines s.linesq = true
  /-- R8, R146. -/
  cfg_valid : s.cfg.Valid
  /-- R24, R38: a running micro-program owes the micro-operation at `UPC`. -/
  owed : s.running = true → s.upc.toNat < s.program.length

/-- Where the nibble phase is known, the HD44780 is in step with the block: in PH_IDLE the enable line is low and
the next nibble is a high half (R41 item c), and inside an operation both are what the writes made so far say.
During PORSEQ the phase is unknown and `PORT` is what the writes made so far say. -/
def FarSideInv (s : State) : Prop :=
  match s.ph with
  | .por => s.nph = .unknown ∧ ∃ p, s.port = portAfter p (writesOf (s.program.take s.upc.toNat))
  | .fail => s.nph = .unknown
  | .idle => s.nph = .unknown ∨ (s.nph = .high ∧ enableBit s.port = false)
  | .busy => s.nph = .unknown ∨
      ∃ p, enableBit p = false ∧ s.port = portAfter p (writesOf (s.program.take s.upc.toNat)) ∧
        s.nph = NibblePhase.afterWrites .high p (writesOf (s.program.take s.upc.toNat))

/-- Every byte written so far has bit 1 equal to 0 (R41 item b, R79). -/
def RwLow (s : State) : Prop := ∀ e ∈ s.trace, ∀ b, e.byte = some b → b.getLsbD RW_BIT = false

end Sys2Proof.Machine
end

