-- ==== Sys2Proof/Certificates/Slice0/Obligations.lean ====
section
/-! DEFINITION. The statements for the provers. `ok` answers are `Input.bwDone false`, a failed write is
`Input.bwDone true`. A hypothesis `s.reqReady = true` is R27's condition for acceptance: PH_IDLE, reset not asserted. -/

open Sys2Proof Sys2Proof.Machine

/-! ## Encodings (30_encoding.md) -/

/-- R73, R71, R72: which operation a request word is depends on `req[19:17]` alone, and where each operand stands. -/
def Obligations.EveryRequestWordDecodesByItsOpcode : Prop :=
  ∀ w : Request,
    let bl := w.extractLsb' 16 1
    let arg := w.extractLsb' 0 16
    let hi := w.extractLsb' 8 8
    let lo := w.extractLsb' 0 8
    let op := w.extractLsb' 17 3
    (op = 0 ∧ decodeRequest w = .wrcmd bl hi lo) ∨ (op = 1 ∧ decodeRequest w = .wrdata bl hi lo) ∨
    (op = 2 ∧ decodeRequest w = .blon bl arg) ∨ (op = 3 ∧ decodeRequest w = .bloff bl arg) ∨
    (op = 4 ∧ decodeRequest w = .delay bl arg) ∨ (op = 5 ∧ decodeRequest w = .rsvd5 bl arg) ∨
    (op = 6 ∧ decodeRequest w = .rsvd6 bl arg) ∨ (op = 7 ∧ decodeRequest w = .rsvd7 bl arg)

/-- Every request operation, with every operand, is read back from its own word; the two internal operations have
no word (R77). -/
def Obligations.DecodeOfEncodeIsTheInstruction : Prop :=
  ∀ i : Instr, (i.requestable = true → ∃ w, encode i = some w ∧ decodeRequest w = i) ∧
    (i.requestable = false → encode i = none)

/-- No bit of a request word is lost in decoding (R70). -/
def Obligations.EncodeOfDecodeIsTheWord : Prop :=
  ∀ w : Request, (decodeRequest w).requestable = true ∧ (decodeRequest w).wellFormed = true ∧
    encode (decodeRequest w) = some w

/-- The canonical words of R82, as numbers. -/
def Obligations.CanonicalRequestWords : Prop :=
  (∀ (c : Byte) (bl : Bit), encode (.wrcmd bl 0 c) = some (BitVec.ofNat 20 (0 * 2 ^ 17 + bl.toNat * 2 ^ 16 + c.toNat))) ∧
  (∀ (d : Byte) (bl : Bit), encode (.wrdata bl 0 d) = some (BitVec.ofNat 20 (1 * 2 ^ 17 + bl.toNat * 2 ^ 16 + d.toNat))) ∧
  encode (.blon 0 0) = some 0x40000 ∧ encode (.bloff 0 0) = some 0x60000 ∧
  (∀ t : Arg, encode (.delay 0 t) = some (BitVec.ofNat 20 (4 * 2 ^ 17 + t.toNat)))

/-- Words of 95_test_vectors.md sections 3 to 5 and the operations they stand for. -/
def Obligations.WrittenOutWordsDecode : Prop :=
  decodeRequest 0b00010000000000101000#20 = .wrcmd 1 0 0x28 ∧
  decodeRequest 0b00110000000001000001#20 = .wrdata 1 0 0x41 ∧
  decodeRequest 0b01011111111111111111#20 = .blon 1 0xFFFF ∧
  decodeRequest 0b01100000000000000000#20 = .bloff 0 0 ∧
  decodeRequest 0b10000000000000101000#20 = .delay 0 40 ∧
  decodeRequest 0b10100000000000000000#20 = .rsvd5 0 0

/-! ## The nibble packer and the strobe controller (40_transfer.md) -/

/-- R100: the output byte is the sum of its fields, so bit 1 is 0. -/
def Obligations.PackIsTheSumOfItsFields : Prop :=
  ∀ (n : Nibble) (rs bl e : Bit),
    (pack n rs bl e).toNat = n.toNat * 16 + bl.toNat * 8 + e.toNat * 4 + rs.toNat

/-- R101: bit 1 is 0, every field can be read back (so PACK is injective), the values of item c, and the strobe
changes bit 2 only. -/
def Obligations.PackFieldsReadBack : Prop :=
  (∀ (n : Nibble) (rs bl e : Bit),
    (pack n rs bl e).getLsbD 1 = false ∧ (pack n rs bl e).extractLsb' 4 4 = n ∧
    (pack n rs bl e).extractLsb' 0 1 = rs ∧ (pack n rs bl e).extractLsb' 3 1 = bl ∧
    (pack n rs bl e).extractLsb' 2 1 = e ∧
    pack n rs bl 1 = pack n rs bl 0 ||| 0x04#8 ∧ pack n rs bl 1 ^^^ pack n rs bl 0 = 0x04#8) ∧
  (∀ (n n' : Nibble) (rs rs' bl bl' e e' : Bit), pack n rs bl e = pack n' rs' bl' e' →
    n = n' ∧ rs = rs' ∧ bl = bl' ∧ e = e') ∧
  pack 0 0 0 0 = 0x00#8 ∧ pack 0xF 1 1 1 = 0xFD#8 ∧ pack 0 0 1 0 = 0x08#8 ∧ pack 0 0 0 1 = 0x04#8 ∧
  pack 0 1 0 0 = 0x01#8 ∧ pack 1 0 0 0 = 0x10#8 ∧ pack 8 0 0 0 = 0x80#8

/-- R102, R104: a strobe pair is enable set, then the same byte with it cleared; a logical byte is two of them, high
nibble first, four bus writes with the values written out. -/
def Obligations.LogicalByteIsTwoStrobePairs : Prop :=
  (∀ (n : Nibble) (rs bl : Bit), strobe n rs bl = [.write (pack n rs bl 1), .write (pack n rs bl 0)] ∧
    pack n rs bl 1 ^^^ pack n rs bl 0 = 0x04#8 ∧
    latchAt (pack n rs bl 1) (pack n rs bl 0) = .nibble rs n) ∧
  (∀ (v : Byte) (rs bl : Bit),
    let hi := v.toNat / 16
    let lo := v.toNat % 16
    xfer v rs bl = strobe (BitVec.ofNat 4 hi) rs bl ++ strobe (BitVec.ofNat 4 lo) rs bl ∧
    xfer v rs bl =
      [.write (BitVec.ofNat 8 (hi * 16 + bl.toNat * 8 + 4 + rs.toNat)),
       .write (BitVec.ofNat 8 (hi * 16 + bl.toNat * 8 + rs.toNat)),
       .write (BitVec.ofNat 8 (lo * 16 + bl.toNat * 8 + 4 + rs.toNat)),
       .write (BitVec.ofNat 8 (lo * 16 + bl.toNat * 8 + rs.toNat))])

/-! ## The operations: completion, result, failure and frame

Each says what the operation's own rule says, and that every field it does not name is unchanged. What becomes of
the offer (`v`, log 9) and of the nibble phase (`q`, log 4) is the model's choice and stands in two statements of
its own, `AcceptanceUsesUpTheOffer` and `NibblePhaseFollowsTheWrites`. Two further points are the model's: that the
latches take the ignored bits too (log 17), and that `PORT` after a failed write is the free value of the next draw
(log 3), so each such clause holds whatever that value is. The clauses fix the inputs; for every other list of inputs
see `RequestEventsFollowTheMicroProgram` and `SequencerEventsFollowTheMicroProgram`. -/

/-- R108: WRCMD makes four writes, high nibble first, register-select 0, then for `c <= 3` only the settling
sleep, then `Resp(0)`; when write `k + 1` fails, nothing more but `Resp(1)`, and `PORT` is a free value (R35, log 3).
The latches take the request, the ignored `arg[15:8]` too (R21, log 17). Every field not named is unchanged. -/
def Obligations.WrcmdWritesFourBytesThenSettles : Prop :=
  ∀ (s : State) (bl : Bit) (ign c : Byte) (rest : List Input),
    let hi := c.extractLsb' 4 4
    let lo := c.extractLsb' 0 4
    let bytes := [pack hi 0 bl 1, pack hi 0 bl 0, pack lo 0 bl 1, pack lo 0 bl 0]
    let latched (v : Bool) := { s with opq := 0, blq := bl, argq := ign ++ c, reqValid := v, ph := .idle, upc := 0 }
    s.reqReady = true → 2000 ≤ s.cfg.tSettle.toNat →
    (s.inputs = List.replicate 4 (.bwDone false) ++ (if c.toNat ≤ 3 then [.tmDone] else []) ++ rest →
      ∃ v q, exec (.wrcmd bl ign c) s = .next { latched v with
        port := pack lo 0 bl 0
        nph := q
        trace := s.trace ++ bytes.map (.write s.addr) ++
          (if c.toNat ≤ 3 then [.sleep s.cfg.tSettle] else []) ++ [.resp .ok]
        inputs := rest }) ∧
    (∀ k b, bytes[k]? = some b → s.inputs = List.replicate k (.bwDone false) ++ .bwDone true :: rest →
      ∃ v q, exec (.wrcmd bl ign c) s = .next { latched v with
        port := Config.freePort s.draws
        nph := q
        draws := s.draws + 1
        trace := s.trace ++ (bytes.take k).map (.write s.addr) ++
          [.writeFailed s.addr b, .resp .busTransactionError]
        inputs := rest })

/-- R110: WRDATA makes four writes with register-select 1 and no sleep for any value, then `Resp(0)`; when write
`k + 1` fails, nothing more but `Resp(1)`, and `PORT` is a free value (R35, log 3). The latches take the request, the
ignored `arg[15:8]` too (R21, log 17). Every field not named is unchanged. -/
def Obligations.WrdataWritesFourBytes : Prop :=
  ∀ (s : State) (bl : Bit) (ign d : Byte) (rest : List Input),
    let hi := d.extractLsb' 4 4
    let lo := d.extractLsb' 0 4
    let bytes := [pack hi 1 bl 1, pack hi 1 bl 0, pack lo 1 bl 1, pack lo 1 bl 0]
    let latched (v : Bool) := { s with opq := 1, blq := bl, argq := ign ++ d, reqValid := v, ph := .idle, upc := 0 }
    s.reqReady = true →
    (s.inputs = List.replicate 4 (.bwDone false) ++ rest →
      ∃ v q, exec (.wrdata bl ign d) s = .next { latched v with
        port := pack lo 1 bl 0
        nph := q
        trace := s.trace ++ bytes.map (.write s.addr) ++ [.resp .ok]
        inputs := rest }) ∧
    (∀ k b, bytes[k]? = some b → s.inputs = List.replicate k (.bwDone false) ++ .bwDone true :: rest →
      ∃ v q, exec (.wrdata bl ign d) s = .next { latched v with
        port := Config.freePort s.draws
        nph := q
        draws := s.draws + 1
        trace := s.trace ++ (bytes.take k).map (.write s.addr) ++
          [.writeFailed s.addr b, .resp .busTransactionError]
        inputs := rest })

/-- R130: BLON makes one write of 0x08, whatever `bl` and `arg` are, then `Resp(0)`; `Resp(1)` when it fails, and
then `PORT` is a free value (R35, log 3). The latches take the ignored `bl` and `arg` too (R21, log 17). Every field
not named is unchanged. -/
def Obligations.BlonWritesTheBacklightBit : Prop :=
  ∀ (s : State) (bl : Bit) (arg : Arg) (rest : List Input),
    let latched (v : Bool) := { s with opq := 2, blq := bl, argq := arg, reqValid := v, ph := .idle, upc := 0 }
    s.reqReady = true →
    (s.inputs = .bwDone false :: rest →
      ∃ v q, exec (.blon bl arg) s = .next { latched v with
        port := 0x08
        nph := q
        trace := s.trace ++ [.write s.addr 0x08, .resp .ok]
        inputs := rest }) ∧
    (s.inputs = .bwDone true :: rest →
      ∃ v q, exec (.blon bl arg) s = .next { latched v with
        port := Config.freePort s.draws
        nph := q
        draws := s.draws + 1
        trace := s.trace ++ [.writeFailed s.addr 0x08, .resp .busTransactionError]
        inputs := rest })

/-- R133: BLOFF makes one write of 0x00, whatever `bl` and `arg` are, then `Resp(0)`; `Resp(1)` when it fails, and
then `PORT` is a free value (R35, log 3). The latches take the ignored `bl` and `arg` too (R21, log 17). Every field
not named is unchanged. -/
def Obligations.BloffWritesTheZeroByte : Prop :=
  ∀ (s : State) (bl : Bit) (arg : Arg) (rest : List Input),
    let latched (v : Bool) := { s with opq := 3, blq := bl, argq := arg, reqValid := v, ph := .idle, upc := 0 }
    s.reqReady = true →
    (s.inputs = .bwDone false :: rest →
      ∃ v q, exec (.bloff bl arg) s = .next { latched v with
        port := 0x00
        nph := q
        trace := s.trace ++ [.write s.addr 0x00, .resp .ok]
        inputs := rest }) ∧
    (s.inputs = .bwDone true :: rest →
      ∃ v q, exec (.bloff bl arg) s = .next { latched v with
        port := Config.freePort s.draws
        nph := q
        draws := s.draws + 1
        trace := s.trace ++ [.writeFailed s.addr 0x00, .resp .busTransactionError]
        inputs := rest })

/-- R136 and R137 item a: DELAY makes one sleep of its operand and `Resp(0)`, no bus write, no error; for `t = 0`
no event but `Resp(0)` at once, with no input needed. A bus answer during the sleep changes nothing (R137 item e,
R192). The latches take the ignored `bl` too (R21, log 17). Every field not named is unchanged. -/
def Obligations.DelaySleepsAndResponds : Prop :=
  ∀ (s : State) (bl : Bit) (t : Arg) (rest : List Input) (stray : List Bool),
    let latched (v : Bool) := { s with opq := 4, blq := bl, argq := t, reqValid := v, ph := .idle, upc := 0 }
    s.reqReady = true →
    (t ≠ 0 → s.inputs = stray.map .bwDone ++ .tmDone :: rest →
      ∃ v, exec (.delay bl t) s = .next { latched v with trace := s.trace ++ [.sleep t, .resp .ok], inputs := rest }) ∧
    (t = 0 → ∃ v, exec (.delay bl t) s = .next { latched v with trace := s.trace ++ [.resp .ok] })

/-- R174: a reserved operation writes the latches and answers `Resp(2)`; PH stays PH_IDLE, UPC stays as it is, no
bus write, no sleep, no input is used. Every field not named is unchanged. -/
def Obligations.ReservedCodesAnswerCallerContractViolation : Prop :=
  ∀ (s : State) (bl : Bit) (arg : Arg), s.reqReady = true →
    let answered (op : BitVec 3) (v : Bool) : State := { s with
      opq := op, blq := bl, argq := arg, reqValid := v, trace := s.trace ++ [.resp .callerContractViolation] }
    (∃ v, exec (.rsvd5 bl arg) s = .next (answered 5 v)) ∧ (∃ v, exec (.rsvd6 bl arg) s = .next (answered 6 v)) ∧
    (∃ v, exec (.rsvd7 bl arg) s = .next (answered 7 v))

/-- R112: where the sequencer issues WRINIT, the two bytes of one strobe pair with register-select 0 and backlight
0, and UPC moves on by two; a failed write ends PORSEQ in PH_FAIL with `PORT` a free value (R35, log 3). That a step
ends after the pair is the model's choice (log 8). Every field not named is unchanged. -/
def Obligations.WrinitWritesOneStrobePair : Prop :=
  ∀ (s : State) (n : Nibble) (rest : List Input),
    let up := pack n 0 0 1
    let down := pack n 0 0 0
    s.rst = false → s.ph = .por →
    ((s.upc = 1 ∨ s.upc = 4 ∨ s.upc = 7) ∧ n = 0x3 ∨ s.upc = 10 ∧ n = s.cfg.nib4bit) →
    (s.inputs = .bwDone false :: .bwDone false :: rest →
      ∃ q, exec (.wrinit n) s = .next { s with
        upc := s.upc + 2
        port := down
        nph := q
        trace := s.trace ++ [.write s.addr up, .write s.addr down]
        inputs := rest }) ∧
    (s.inputs = .bwDone true :: rest →
      ∃ q, exec (.wrinit n) s = .next { s with
        ph := .fail, upc := 0, port := Config.freePort s.draws, nph := q, draws := s.draws + 1
        trace := s.trace ++ [.writeFailed s.addr up]
        inputs := rest }) ∧
    (s.inputs = .bwDone false :: .bwDone true :: rest →
      ∃ q, exec (.wrinit n) s = .next { s with
        ph := .fail, upc := 0, port := Config.freePort s.draws, nph := q, draws := s.draws + 1
        trace := s.trace ++ [.write s.addr up, .writeFailed s.addr down]
        inputs := rest })

/-- R146, R151: PORSEQ from UPC 0 with every write answered `success` performs its seventeen micro-operations and
ends in PH_IDLE with UPC 0, INITD 1 and no response. Every field not named is unchanged but the
nibble phase (log 4). -/
def Obligations.PorseqRunsItsSeventeenMicroOperations : Prop :=
  ∀ (s : State) (lines : BitVec 3) (f : Byte) (rest : List Input),
    let m := s.cfg.nib4bit
    let p := s.cfg.blPor
    let hi := f.extractLsb' 4 4
    let lo := f.extractLsb' 0 4
    let prog : List MicroOp := [
      .sleep s.cfg.tPwrup,
      .write 0x34, .write 0x30, .sleep s.cfg.tRst1,
      .write 0x34, .write 0x30, .sleep s.cfg.tRst2,
      .write 0x34, .write 0x30, .sleep s.cfg.tRst3,
      .write (pack m 0 0 1), .write (pack m 0 0 0), .sleep s.cfg.tMode,
      .write (pack hi 0 p 1), .write (pack hi 0 p 0), .write (pack lo 0 p 1), .write (pack lo 0 p 0)]
    s.rst = false → s.ph = .por → s.upc = 0 → s.linesq = lines → s.cfg.Valid →
    (lines = 1 ∧ f = s.cfg.fs1 ∨ lines = 2 ∧ f = s.cfg.fs2 ∨ lines = 3 ∧ f = s.cfg.fs3 ∨ lines = 4 ∧ f = s.cfg.fs4) →
    s.inputs = answersOf prog ++ rest →
    ∃ t q, exec (.porseq lines) s = .next t ∧ t.initd = true ∧
      t = { s with ph := .idle, upc := 0, port := pack lo 0 p 0, nph := q
                   trace := s.trace ++ eventsOf s.addr prog, inputs := rest }

/-- R151, R152 item a: a failed write of PORSEQ ends it at once in PH_FAIL with UPC 0 and FAILD 1, without a
response; the writes and sleeps before it stand, none after it is made, and `PORT` is a free value (R35, log 3).
Every field not named is unchanged but the nibble phase (log 4). -/
def Obligations.PorseqFailsAtTheFirstFailedWrite : Prop :=
  ∀ (s : State) (lines : BitVec 3) (f : Byte) (k : Nat) (b : Byte) (rest : List Input),
    let m := s.cfg.nib4bit
    let p := s.cfg.blPor
    let hi := f.extractLsb' 4 4
    let lo := f.extractLsb' 0 4
    let prog : List MicroOp := [
      .sleep s.cfg.tPwrup,
      .write 0x34, .write 0x30, .sleep s.cfg.tRst1,
      .write 0x34, .write 0x30, .sleep s.cfg.tRst2,
      .write 0x34, .write 0x30, .sleep s.cfg.tRst3,
      .write (pack m 0 0 1), .write (pack m 0 0 0), .sleep s.cfg.tMode,
      .write (pack hi 0 p 1), .write (pack hi 0 p 0), .write (pack lo 0 p 1), .write (pack lo 0 p 0)]
    s.rst = false → s.ph = .por → s.upc = 0 → s.linesq = lines → s.cfg.Valid →
    (lines = 1 ∧ f = s.cfg.fs1 ∨ lines = 2 ∧ f = s.cfg.fs2 ∨ lines = 3 ∧ f = s.cfg.fs3 ∨ lines = 4 ∧ f = s.cfg.fs4) →
    prog[k]? = some (.write b) → s.inputs = answersOf (prog.take k) ++ .bwDone true :: rest →
    ∃ t q, exec (.porseq lines) s = .next t ∧ t.faild = true ∧ t.initd = false ∧
      t = { s with ph := .fail, upc := 0, port := Config.freePort s.draws, nph := q, draws := s.draws + 1
                   trace := s.trace ++ eventsOf s.addr (prog.take k) ++ [.writeFailed s.addr b], inputs := rest }

/-- The model's choice (log 9): the client's offer is used up by acceptance, and where no input is another offer it
stays so, whatever the inputs are. Reserved codes included. -/
def Obligations.AcceptanceUsesUpTheOffer : Prop :=
  ∀ (s : State) (i : Instr), i.requestable = true → s.reqReady = true → (∀ w, .offer w ∉ s.inputs) →
    ∃ t, exec i s = .next t ∧ t.reqValid = false ∧ t.req = s.req

/-- The model's reading of R37 (DEDUCED, log 4): after an accepted request the nibble phase is what its successful
writes make of it, unknown when a write failed or reset rose; after a completed PORSEQ it is `high`. -/
def Obligations.NibblePhaseFollowsTheWrites : Prop :=
  (∀ (s t : State) (w : Request), s.reqReady = true → exec (decodeRequest w) s = .next t →
    ∃ es, t.trace = s.trace ++ es ∧
      ((t.rst = true ∨ ∃ b, .writeFailed s.addr b ∈ es) → t.nph = .unknown) ∧
      (t.rst = false → (∀ b, .writeFailed s.addr b ∉ es) →
        t.nph = s.nph.afterWrites s.port (es.filterMap Event.byte))) ∧
  (∀ (s t : State) (lines : BitVec 3), s.ph = .por → exec (.porseq lines) s = .next t → t.ph = .idle → t.nph = .high)

/-! ## The events of an operation, for any inputs -/

/-- R59, R41 item e: for any inputs (a strap change, an offer or a stray answer between two answers too), the events
of an accepted request are those of a beginning `done` of its micro-program, in order, and then what ends them: nothing
while the operation at the head of `left` is waited for; `Resp(0)` with nothing left; the failed write and `Resp(1)`;
`Resp(2)` for a reserved code; or the operation that reset cut (R201, log 10). A waited-for sleep is not 0 (R14). -/
def Obligations.RequestEventsFollowTheMicroProgram : Prop :=
  ∀ (s t : State) (w : Request), s.reqReady = true → exec (decodeRequest w) s = .next t →
    let op := w.extractLsb' 17 3
    let prog := requestProgram s.cfg op (w.extractLsb' 16 1) (w.extractLsb' 0 16)
    ∃ done left tail, prog = done ++ left ∧ t.trace = s.trace ++ eventsOf s.addr done ++ tail ∧
      ((t.rst = false ∧ t.ph = .busy ∧ t.upc.toNat = done.length ∧ left ≠ [] ∧ left.head? ≠ some (.sleep 0) ∧ tail = []) ∨
       (t.rst = false ∧ t.ph = .idle ∧ op.toNat ≤ 4 ∧ left = [] ∧ tail = [.resp .ok]) ∨
       (t.rst = false ∧ t.ph = .idle ∧
         ∃ b more, left = .write b :: more ∧ tail = [.writeFailed s.addr b, .resp .busTransactionError]) ∨
       (t.rst = false ∧ t.ph = .idle ∧ 5 ≤ op.toNat ∧ left = [] ∧ tail = [.resp .callerContractViolation]) ∨
       (t.rst = true ∧ t.ph = .por ∧ left.head? ≠ some (.sleep 0) ∧
         (∃ m more, left = m :: more ∧ tail = cutByReset s.addr m)))

/-- R59, R146, R112, R151: the same of PORSEQ from UPC 0 and of WRINIT where the sequencer issues it. PORSEQ that has
run past its end is in PH_IDLE, WRINIT that has made its pair leaves PH_POR with UPC moved on (log 8); neither
responds. -/
def Obligations.SequencerEventsFollowTheMicroProgram : Prop :=
  ∀ (s t : State) (i : Instr) (prog : List MicroOp) (after : Phase), s.rst = false → s.ph = .por →
    (i = .porseq s.linesq ∧ s.upc = 0 ∧ prog = progPorseq s.cfg s.linesq ∧ after = .idle ∨
     i = .wrinit 0x3 ∧ (s.upc = 1 ∨ s.upc = 4 ∨ s.upc = 7) ∧ prog = progWrinit 0x3 ∧ after = .por ∨
     i = .wrinit s.cfg.nib4bit ∧ s.upc = 10 ∧ prog = progWrinit s.cfg.nib4bit ∧ after = .por) →
    exec i s = .next t →
    ∃ done left tail, prog = done ++ left ∧ t.trace = s.trace ++ eventsOf s.addr done ++ tail ∧
      ((t.rst = false ∧ t.ph = .por ∧ t.upc.toNat = s.upc.toNat + done.length ∧
         left ≠ [] ∧ left.head? ≠ some (.sleep 0) ∧ tail = []) ∨
       (t.rst = false ∧ t.ph = after ∧ left = [] ∧ tail = []) ∨
       (t.rst = false ∧ t.ph = .fail ∧ ∃ b more, left = .write b :: more ∧ tail = [.writeFailed s.addr b]) ∨
       (t.rst = true ∧ t.ph = .por ∧ left.head? ≠ some (.sleep 0) ∧
         (∃ m more, left = m :: more ∧ tail = cutByReset s.addr m)))

/-! ## The far side (10_state.md R36, 20_memory.md R64) -/

/-- R64: the latch view of each operation, from any `PORT` with the enable line low. -/
def Obligations.LatchViewOfTheOperations : Prop :=
  ∀ (p v : Byte) (n : Nibble) (bl : Bit) (cfg : Config) (t : Arg), enableBit p = false →
    latchView p (writesOf (progWrcmd cfg bl v)) = [.nibble 0 (v.extractLsb' 4 4), .nibble 0 (v.extractLsb' 0 4)] ∧
    latchView p (writesOf (progWrdata bl v)) = [.nibble 1 (v.extractLsb' 4 4), .nibble 1 (v.extractLsb' 0 4)] ∧
    latchView p (writesOf (progWrinit n)) = [.nibble 0 n] ∧
    latchView p (writesOf progBlon) = [] ∧ latchView p (writesOf progBloff) = [] ∧
    latchView p (writesOf (progDelay t)) = []

/-- R153: the latch view of PORSEQ is six nibbles, whatever `PORT` held before it. -/
def Obligations.PorseqLatchViewDoesNotDependOnPort : Prop :=
  ∀ (p : Byte) (cfg : Config) (lines : BitVec 3), cfg.Valid →
    latchView p (writesOf (progPorseq cfg lines)) =
      [.nibble 0 0x3, .nibble 0 0x3, .nibble 0 0x3, .nibble 0 cfg.nib4bit,
       .nibble 0 ((functionSet cfg lines).extractLsb' 4 4), .nibble 0 ((functionSet cfg lines).extractLsb' 0 4)]

/-! ## Errors, waiting, ports (60_exceptions.md) -/

/-- R172: `busError` on the outstanding write of a request. PH_IDLE, UPC 0, `Resp(1)` as the last event and no event
between; the latches, ADDR and LINESQ keep their values; `PORT` is a free value (log 3), the nibble phase unknown; and no
later micro-operation is performed, whatever inputs follow. -/
def Obligations.BusErrorEndsARequest : Prop :=
  ∀ (s : State) (b : Byte) (stop : Nat) (later : List Input),
    s.ph = .busy → s.bwOut = some (s.addr, b) →
    let t : State := { s with
      ph := .idle, upc := 0, port := Config.freePort s.draws, nph := .unknown, draws := s.draws + 1
      trace := s.trace ++ [.writeFailed s.addr b, .resp .busTransactionError] }
    onInput (.bwDone true) s = t ∧ runInputs stop later t = t

/-- R182, R151: `busError` on the outstanding write of PORSEQ. PH_FAIL, UPC 0, FAILD 1, no response; `PORT` is
a free value (log 3). -/
def Obligations.BusErrorEndsPorseqInFail : Prop :=
  ∀ (s : State) (b : Byte) (stop : Nat) (later : List Input),
    s.ph = .por → s.bwOut = some (s.addr, b) →
    let t : State := { s with
      ph := .fail, upc := 0, port := Config.freePort s.draws, nph := .unknown, draws := s.draws + 1
      trace := s.trace ++ [.writeFailed s.addr b] }
    onInput (.bwDone true) s = t ∧ t.faild = true ∧ runInputs stop later t = t

/-- R27 (last row), R182: in PH_FAIL nothing but reset changes anything: a step whose next input is not the rise of
`rst` emits nothing, accepts nothing and leaves every register and `PORT` as they are. -/
def Obligations.NothingButResetLeavesFail : Prop :=
  ∀ s t : State, s.ph = .fail → s.rst = false → s.inputs.head? ≠ some (.rst true) → step s = .next t →
    t.ph = .fail ∧ t.upc = s.upc ∧ t.opq = s.opq ∧ t.blq = s.blq ∧ t.argq = s.argq ∧ t.addr = s.addr ∧
    t.linesq = s.linesq ∧ t.trace = s.trace ∧ t.port = s.port ∧ t.nph = s.nph ∧ t.reqReady = false

/-- R178, R192: a bus write that is not answered stays outstanding, with the same address and byte at the ports,
whatever else arrives; nothing is emitted and no request is accepted. With no inputs at all the state is the same. -/
def Obligations.UnansweredWriteBlocksTheBlock : Prop :=
  ∀ (s t : State) (b : Byte), s.bwOut = some (s.addr, b) →
    (∀ i ∈ s.inputs, i ≠ .bwDone true ∧ i ≠ .bwDone false ∧ i ≠ .rst true) → step s = .next t →
    t.bwOut = some (s.addr, b) ∧ t.ph = s.ph ∧ t.upc = s.upc ∧ t.trace = s.trace ∧ t.port = s.port ∧
    t.reqReady = false ∧ t.inputs = [] ∧ (s.inputs = [] → t = s)

/-- R192: a write and a sleep are never outstanding together; what is asked for is held until the answer, or until
reset cuts it (R201); `bw_done` without an outstanding write and `tm_done` without an outstanding sleep are ignored. -/
def Obligations.BusAndTimerChannels : Prop :=
  ∀ (s : State) (i : Input) (err : Bool),
    (s.bwOut = none ∨ s.tmOut = none) ∧
    (i ≠ .bwDone true → i ≠ .bwDone false → i ≠ .rst true → s.bwOut ≠ none → (onInput i s).bwOut = s.bwOut) ∧
    (i ≠ .tmDone → i ≠ .rst true → s.tmOut ≠ none → (onInput i s).tmOut = s.tmOut) ∧
    (s.bwOut = none → onInput (.bwDone err) s = s) ∧ (s.tmOut = none → onInput .tmDone s = s)

/-- R188, R191: a request is accepted only where `req_ready` is 1, exactly in PH_IDLE with reset not asserted;
elsewhere it waits: no state is changed. -/
def Obligations.RequestsWaitOutsideIdle : Prop :=
  ∀ (s : State) (i : Instr),
    (s.reqReady = true ↔ s.ph = .idle ∧ s.rst = false) ∧
    (i.requestable = true → s.reqReady = false → exec i s = .next s)

/-- R191: every accepted request gets exactly one response, as its last event, before `req_ready` is 1 again; while
it is in progress there is none, and none when reset cuts it (R201). -/
def Obligations.OneResponsePerAcceptedRequest : Prop :=
  ∀ (s t : State) (i : Instr), i.requestable = true → s.reqReady = true → exec i s = .next t →
    ∃ es, t.trace = s.trace ++ es ∧
      ((t.rst = false ∧ t.ph = .idle ∧ ∃ es' r, es = es' ++ [.resp r] ∧ ∀ e ∈ es', e.isResponse = false) ∨
       (t.rst = false ∧ t.ph = .busy ∧ ∀ e ∈ es, e.isResponse = false) ∨
       (t.rst = true ∧ t.ph = .por ∧ ∀ e ∈ es, e.isResponse = false))

/-! ## Reset (70_reset_and_hazards.md) -/

/-- R201: while `rst` rises in any state: PH_POR, UPC 0, INITD, FAILD and `req_ready` 0, no write and no sleep
outstanding, no response; ADDR and LINESQ keep their values until the release. -/
def Obligations.ResetAbandonsTheOperation : Prop :=
  ∀ s : State, s.rst = false →
    let t := onInput (.rst true) s
    t.rst = true ∧ t.ph = .por ∧ t.upc = 0 ∧ t.initd = false ∧ t.faild = false ∧ t.reqReady = false ∧
    t.bwOut = none ∧ t.tmOut = none ∧ t.addr = s.addr ∧ t.linesq = s.linesq ∧ t.nph = .unknown ∧
    (∃ es, t.trace = s.trace ++ es ∧ ∀ e ∈ es, e.isResponse = false) ∧
    (∀ err : Bool, onInput (.bwDone err) t = t) ∧ onInput .tmDone t = t

/-- R202: when `rst` falls, `ADDR <- addr_i`, `LINESQ <- clamp(lines_i, 1, 4)`, and the next step runs PORSEQ with
that line count; nothing else changes, and the straps are not looked at afterwards. -/
def Obligations.ResetReleaseCapturesTheStraps : Prop :=
  ∀ s : State, s.rst = true →
    let l := s.linesI.toNat
    let t : State := { s with
      rst := false, ph := .por, upc := 0, addr := s.addrI
      linesq := BitVec.ofNat 3 (if l = 0 then 1 else if 4 < l then 4 else l) }
    onInput (.rst false) s = t ∧ step t = exec (.porseq t.linesq) t ∧
    (∀ a m, (onInput (.straps a m) t).addr = t.addr ∧ (onInput (.straps a m) t).linesq = t.linesq)

/-- R39: the state at release. That `req_valid` is 0, that the record fields are empty and that the configuration is
the default one are the model's choices (logs 6, 7, 9, 10). -/
def Obligations.ResetStateIsTheReleaseOfReset : Prop :=
  State.reset.rst = false ∧ State.reset.ph = .por ∧ State.reset.upc = 0 ∧ State.reset.initd = false ∧
  State.reset.faild = false ∧ State.reset.addr = State.reset.addrI ∧
  State.reset.linesq = clampLines State.reset.linesI ∧ State.reset.nph = .unknown ∧
  State.reset.reqValid = false ∧ State.reset.inputs = [] ∧ State.reset.trace = [] ∧
  State.reset.cfg = Config.default

/-- R28: INITD is 1 exactly in PH_IDLE and PH_BUSY, FAILD exactly in PH_FAIL, with the phase codes of R26;
both are 0 at reset. -/
def Obligations.StatusOutputsFollowThePhase : Prop :=
  (∀ s : State, (s.initd = true ↔ s.ph.code = 1 ∨ s.ph.code = 2) ∧ (s.faild = true ↔ s.ph.code = 3)) ∧
  State.reset.initd = false ∧ State.reset.faild = false

/-! ## Whole-machine rules -/

/-- Of R27, the rows that one input decides (`StepChangesThePhaseOnlyAsTheTableSays` has them all): it changes the
phase not at all, by the rise of `rst`, by its fall, or by `busError` on the
outstanding write, from PH_BUSY to PH_IDLE or from PH_POR to PH_FAIL. -/
def Obligations.OneInputChangesThePhaseOnlyAsTheTableSays : Prop :=
  ∀ (s : State) (i : Input),
    (onInput i s).ph = s.ph ∨
    (i = .rst true ∧ s.rst = false ∧ (onInput i s).ph = .por) ∨
    (i = .rst false ∧ s.rst = true ∧ (onInput i s).ph = .por) ∨
    (i = .bwDone true ∧ s.rst = false ∧ (∃ b, s.bwOut = some (s.addr, b)) ∧
      (s.ph = .busy ∧ (onInput i s).ph = .idle ∨ s.ph = .por ∧ (onInput i s).ph = .fail))

/-- R27, every row, over a step (a step can be a whole operation, log 8): reset asserted or released; PORSEQ past its
last micro-operation, or failing; a request accepted, with a defined or a reserved code, and then its end, its failure
or neither yet; PH_FAIL kept. `es` are the step's new events. The latches take the ignored bits too (log 17). -/
def Obligations.StepChangesThePhaseOnlyAsTheTableSays : Prop :=
  ∀ s t : State, step s = .next t →
    ∃ es, t.trace = s.trace ++ es ∧
      (s.rst = true → es = [] ∧ (t.ph = s.ph ∨ (t.rst = false ∧ t.ph = .por ∧ t.upc = 0))) ∧
      (s.rst = false → t.rst = true → t.ph = .por ∧ t.upc = 0 ∧ ∀ e ∈ es, e.isResponse = false) ∧
      (s.rst = false → t.rst = false →
        (s.ph = .fail → t.ph = .fail ∧ es = []) ∧
        (s.ph = .por → (∀ e ∈ es, e.isResponse = false) ∧
          (((t.ph = .por ∨ t.ph = .idle ∧ t.upc = 0) ∧ ∀ b, .writeFailed s.addr b ∉ es) ∨
           (t.ph = .fail ∧ t.upc = 0 ∧ ∃ b, es.getLast? = some (.writeFailed s.addr b)))) ∧
        (s.ph = .busy →
          (t.ph = .busy ∧ ∀ e ∈ es, e.isResponse = false) ∨
          (t.ph = .idle ∧ t.upc = 0 ∧
            (es.getLast? = some (.resp .ok) ∨ es.getLast? = some (.resp .busTransactionError)))) ∧
        (s.ph = .idle → s.reqValid = false → t.ph = .idle ∧ es = []) ∧
        (s.ph = .idle → s.reqValid = true →
          let op := s.req.extractLsb' 17 3
          t.opq = op ∧ t.blq = s.req.extractLsb' 16 1 ∧ t.argq = s.req.extractLsb' 0 16 ∧
          (op.toNat ≤ 4 ∧ t.ph = .busy ∧ (∀ e ∈ es, e.isResponse = false) ∨
           op.toNat ≤ 4 ∧ t.ph = .idle ∧ t.upc = 0 ∧
             (es.getLast? = some (.resp .ok) ∨ es.getLast? = some (.resp .busTransactionError)) ∨
           5 ≤ op.toNat ∧ t.ph = .idle ∧ es = [.resp .callerContractViolation])))

/-- A step runs the operation at hand: the offered request in PH_IDLE (R191), PORSEQ at UPC 0 of PH_POR and WRINIT
at UPC 1, 4, 7, 10 (R146); elsewhere the engine goes on from UPC (R85), and where nothing runs the next input
arrives. Which steps stand for which stretch of a run is the model's choice (log 8). -/
def Obligations.StepRunsTheOperationAtHand : Prop :=
  ∀ s : State,
    (s.reqReady = true → s.reqValid = true → step s = exec (decodeRequest s.req) s) ∧
    (s.rst = false → s.ph = .por → s.upc = 0 → step s = exec (.porseq s.linesq) s) ∧
    (s.rst = false → s.ph = .por → s.upc = 1 ∨ s.upc = 4 ∨ s.upc = 7 → step s = exec (.wrinit 0x3) s) ∧
    (s.rst = false → s.ph = .por → s.upc = 10 → step s = exec (.wrinit s.cfg.nib4bit) s) ∧
    (s.rst = false → s.ph = .por → s.upc ≠ 0 → s.upc ≠ 1 → s.upc ≠ 4 → s.upc ≠ 7 → s.upc ≠ 10 →
      step s = .next (runInputs s.program.length s.inputs s)) ∧
    (s.rst = false → s.ph = .busy → step s = .next (runInputs s.program.length s.inputs s)) ∧
    ((s.rst = true ∨ s.ph = .fail ∨ (s.ph = .idle ∧ s.reqValid = false)) →
      (s.inputs = [] → step s = .next s) ∧
      (∀ i rest, s.inputs = i :: rest → step s = .next (onInput i { s with inputs := rest })))

/-- R170: no step answers a fault, trap, abort or machine check. That a step answers a next state also where R178
gives the block none (a write that is never answered) is the model's choice: stuck is a step that changes nothing
(log 14). -/
def Obligations.EveryStepAnswersANextState : Prop :=
  ∀ s : State, ∃ t, step s = .next t

/-- R30, R41 item d: the configuration never changes, and ADDR and LINESQ change only in the step that takes the
fall of `rst`. -/
def Obligations.ConfigurationChangesOnlyAtRelease : Prop :=
  ∀ s t : State, step s = .next t →
    t.cfg = s.cfg ∧
    ((s.rst = false ∨ s.inputs.head? ≠ some (.rst false)) → t.addr = s.addr ∧ t.linesq = s.linesq)

/-- R50 and R58: a step only adds to the trace, and every bus write it makes goes to `ADDR`. -/
def Obligations.EveryWriteGoesToAddr : Prop :=
  ∀ s t : State, step s = .next t →
    ∃ es, t.trace = s.trace ++ es ∧ ∀ e ∈ es, ∀ a, e.device = some a → a = s.addr

/-- R105: every byte a WRCMD or WRDATA writes, completed, failed or abandoned, carries the request's backlight bit;
register-select is 0 in a command's bytes and 1 in a data byte's; and XFER has no sleep. -/
def Obligations.EveryTransferByteCarriesTheBacklight : Prop :=
  (∀ (v : Byte) (rs bl : Bit), ∀ op ∈ xfer v rs bl, ∃ b, op = .write b) ∧
  ∀ (s t : State) (bl : Bit) (ign v : Byte),
    (exec (.wrcmd bl ign v) s = .next t → ∃ es, t.trace = s.trace ++ es ∧
      ∀ e ∈ es, ∀ b, e.byte = some b → b.extractLsb' 3 1 = bl ∧ b.extractLsb' 0 1 = 0) ∧
    (exec (.wrdata bl ign v) s = .next t → ∃ es, t.trace = s.trace ++ es ∧
      ∀ e ∈ es, ∀ b, e.byte = some b → b.extractLsb' 3 1 = bl ∧ b.extractLsb' 0 1 = 1)

/-- Frame of the operations that store nothing, DELAY and the reserved codes: unless reset rises meanwhile, `PORT`,
the nibble phase and the count of free values (log 3) are unchanged, whatever the inputs are. -/
def Obligations.NonStoringOperationsLeaveThePort : Prop :=
  ∀ (s t : State) (i : Instr) (bl : Bit) (arg : Arg),
    i = .delay bl arg ∨ i = .rsvd5 bl arg ∨ i = .rsvd6 bl arg ∨ i = .rsvd7 bl arg →
    exec i s = .next t → t.rst = s.rst → t.port = s.port ∧ t.nph = s.nph ∧ t.draws = s.draws

/-- Frame of every request, for any inputs: configuration, ADDR and LINESQ are unchanged; unless reset rises
meanwhile the latches hold the request, its ignored bits too (log 17), or, where it waits, what they held; and `PORT`
holds what it held or a byte of this request's own successful write, unless a write failed or reset rose. -/
def Obligations.RequestFrame : Prop :=
  ∀ (s t : State) (w : Request), exec (decodeRequest w) s = .next t →
    t.cfg = s.cfg ∧ t.addr = s.addr ∧ t.linesq = s.linesq ∧
    (s.reqReady = true → t.rst = false →
      t.opq = w.extractLsb' 17 3 ∧ t.blq = w.extractLsb' 16 1 ∧ t.argq = w.extractLsb' 0 16) ∧
    (s.reqReady = false → t.opq = s.opq ∧ t.blq = s.blq ∧ t.argq = s.argq ∧ t.port = s.port) ∧
    ∃ es, t.trace = s.trace ++ es ∧
      (t.port = s.port ∨ .write s.addr t.port ∈ es ∨ (∃ b, .writeFailed s.addr b ∈ es) ∨ t.rst = true)

/-! ## Invariants, and a run may be cut anywhere -/

/-- R24, R27, R30, R41 items a and d: every step keeps the control invariant. -/
def Obligations.ControlInvIsKept : Prop :=
  ∀ s t : State, ControlInv s → step s = .next t → ControlInv t

/-- R41 item c with R36, R37: where the nibble phase is known the HD44780 stays in step with the block: in PH_IDLE
the enable line is low and the next nibble is a high half. How the model follows the nibble phase is DEDUCED
(log 4). -/
def Obligations.FarSideInvIsKept : Prop :=
  ∀ s t : State, ControlInv s → FarSideInv s → step s = .next t → FarSideInv t

/-- R79: no byte with bit 1 set ever stands at the bus port, and a step that starts from a trace without one ends
with a trace without one, whatever the operation, the configuration and the straps are. -/
def Obligations.NoByteHasTheReadBit : Prop :=
  (∀ (s : State) (a : DevAddr) (b : Byte), s.bwOut = some (a, b) → b.getLsbD RW_BIT = false) ∧
  ∀ s t : State, RwLow s → step s = .next t → RwLow t

/-- The three invariants hold at State.reset; it rests on the default configuration (log 6) and on the clamp. -/
def Obligations.InvariantsHoldAtReset : Prop :=
  ControlInv State.reset ∧ FarSideInv State.reset ∧ RwLow State.reset

/-- R59, R85: it makes no difference when the answers come: a request run on the inputs it has, and resumed by the
next step on the rest, ends as if all of them had been there at once; one that has ended is not touched by later
inputs. The cut into steps is the model's choice (log 8); `PorseqMayBeSuspendedAnywhere` is the same of the sequencer. -/
def Obligations.RequestMayBeSuspendedAnywhere : Prop :=
  ∀ (s t : State) (i : Instr) (ys : List Input), i.requestable = true → exec i s = .next t →
    exec i { s with inputs := s.inputs ++ ys } =
      if s.reqReady = true ∧ t.ph = .busy then step { t with inputs := t.inputs ++ ys }
      else .next { t with inputs := t.inputs ++ ys }

/-- R59, R85, R146: the same of PORSEQ, from every UPC. A step in PH_POR (PORSEQ from UPC 0, a WRINIT, or the rest of
PORSEQ) that leaves PORSEQ unfinished, and then one or two steps on the inputs that had not come, end where the engine
ends that has all of them at once; from UPC 0 that is exec of PORSEQ. So a PORSEQ cut anywhere, as often as may be,
still makes its seventeen micro-operations. The cut into steps is the model's choice (log 8). -/
def Obligations.PorseqMayBeSuspendedAnywhere : Prop :=
  ∀ (s t : State) (ys : List Input), s.rst = false → s.ph = .por → step s = .next t → t.rst = false → t.ph = .por →
    let whole := { s with inputs := s.inputs ++ ys }
    (s.upc = 0 → exec (.porseq s.linesq) whole = .next (resume whole)) ∧
    let later := { t with inputs := t.inputs ++ ys }
    (step later = .next (resume whole) ∨ ∃ u, step later = .next u ∧ step u = .next (resume whole))

/-! ## The operation table -/

/-- The model's choice (logs 1, 13): a word of the operation table, placed, is what the very next step runs, from
every state. -/
def Obligations.TableWordRunsAsItsOperation : Prop :=
  ∀ (s : State) (nbits w : Nat) (i : Instr), decodeTableWord nbits w = some i →
    step (s.withFetchWord nbits w) = exec i (s.withFetchWord nbits w)
end

