-- ==== Sys2Proof/Laws/State.lean ====
section
/-! SUPPORT. Which fields the shared operations leave alone, one lemma per field, by rfl or one case split. -/

namespace Sys2Proof.Machine

@[simp] theorem respond_cfg (r : Response) (s : State) : (respond r s).cfg = s.cfg := rfl
@[simp] theorem respond_opq (r : Response) (s : State) : (respond r s).opq = s.opq := rfl
@[simp] theorem respond_blq (r : Response) (s : State) : (respond r s).blq = s.blq := rfl
@[simp] theorem respond_argq (r : Response) (s : State) : (respond r s).argq = s.argq := rfl
@[simp] theorem respond_upc (r : Response) (s : State) : (respond r s).upc = s.upc := rfl
@[simp] theorem respond_ph (r : Response) (s : State) : (respond r s).ph = s.ph := rfl
@[simp] theorem respond_addr (r : Response) (s : State) : (respond r s).addr = s.addr := rfl
@[simp] theorem respond_linesq (r : Response) (s : State) : (respond r s).linesq = s.linesq := rfl
@[simp] theorem respond_rst (r : Response) (s : State) : (respond r s).rst = s.rst := rfl
@[simp] theorem respond_addrI (r : Response) (s : State) : (respond r s).addrI = s.addrI := rfl
@[simp] theorem respond_linesI (r : Response) (s : State) : (respond r s).linesI = s.linesI := rfl
@[simp] theorem respond_reqValid (r : Response) (s : State) : (respond r s).reqValid = s.reqValid := rfl
@[simp] theorem respond_req (r : Response) (s : State) : (respond r s).req = s.req := rfl
@[simp] theorem respond_port (r : Response) (s : State) : (respond r s).port = s.port := rfl
@[simp] theorem respond_nph (r : Response) (s : State) : (respond r s).nph = s.nph := rfl
@[simp] theorem respond_inputs (r : Response) (s : State) : (respond r s).inputs = s.inputs := rfl
@[simp] theorem respond_trace (r : Response) (s : State) : (respond r s).trace = s.trace ++ [.resp r] := rfl
@[simp] theorem respond_draws (r : Response) (s : State) : (respond r s).draws = s.draws := rfl

@[simp] theorem writeSucceeded_cfg (b : Byte) (s : State) : (writeSucceeded b s).cfg = s.cfg := rfl
@[simp] theorem writeSucceeded_opq (b : Byte) (s : State) : (writeSucceeded b s).opq = s.opq := rfl
@[simp] theorem writeSucceeded_blq (b : Byte) (s : State) : (writeSucceeded b s).blq = s.blq := rfl
@[simp] theorem writeSucceeded_argq (b : Byte) (s : State) : (writeSucceeded b s).argq = s.argq := rfl
@[simp] theorem writeSucceeded_upc (b : Byte) (s : State) : (writeSucceeded b s).upc = s.upc + 1#5 := rfl
@[simp] theorem writeSucceeded_ph (b : Byte) (s : State) : (writeSucceeded b s).ph = s.ph := rfl
@[simp] theorem writeSucceeded_addr (b : Byte) (s : State) : (writeSucceeded b s).addr = s.addr := rfl
@[simp] theorem writeSucceeded_linesq (b : Byte) (s : State) : (writeSucceeded b s).linesq = s.linesq := rfl
@[simp] theorem writeSucceeded_rst (b : Byte) (s : State) : (writeSucceeded b s).rst = s.rst := rfl
@[simp] theorem writeSucceeded_addrI (b : Byte) (s : State) : (writeSucceeded b s).addrI = s.addrI := rfl
@[simp] theorem writeSucceeded_linesI (b : Byte) (s : State) : (writeSucceeded b s).linesI = s.linesI := rfl
@[simp] theorem writeSucceeded_reqValid (b : Byte) (s : State) : (writeSucceeded b s).reqValid = s.reqValid := rfl
@[simp] theorem writeSucceeded_req (b : Byte) (s : State) : (writeSucceeded b s).req = s.req := rfl
@[simp] theorem writeSucceeded_port (b : Byte) (s : State) : (writeSucceeded b s).port = b := rfl
@[simp] theorem writeSucceeded_nph (b : Byte) (s : State) : (writeSucceeded b s).nph = s.nph.after (latchAt s.port b) := rfl
@[simp] theorem writeSucceeded_inputs (b : Byte) (s : State) : (writeSucceeded b s).inputs = s.inputs := rfl
@[simp] theorem writeSucceeded_trace (b : Byte) (s : State) : (writeSucceeded b s).trace = s.trace ++ [.write s.addr b] := rfl
@[simp] theorem writeSucceeded_draws (b : Byte) (s : State) : (writeSucceeded b s).draws = s.draws := rfl

@[simp] theorem sleepEnded_cfg (t : Arg) (s : State) : (sleepEnded t s).cfg = s.cfg := rfl
@[simp] theorem sleepEnded_opq (t : Arg) (s : State) : (sleepEnded t s).opq = s.opq := rfl
@[simp] theorem sleepEnded_blq (t : Arg) (s : State) : (sleepEnded t s).blq = s.blq := rfl
@[simp] theorem sleepEnded_argq (t : Arg) (s : State) : (sleepEnded t s).argq = s.argq := rfl
@[simp] theorem sleepEnded_upc (t : Arg) (s : State) : (sleepEnded t s).upc = s.upc + 1#5 := rfl
@[simp] theorem sleepEnded_ph (t : Arg) (s : State) : (sleepEnded t s).ph = s.ph := rfl
@[simp] theorem sleepEnded_addr (t : Arg) (s : State) : (sleepEnded t s).addr = s.addr := rfl
@[simp] theorem sleepEnded_linesq (t : Arg) (s : State) : (sleepEnded t s).linesq = s.linesq := rfl
@[simp] theorem sleepEnded_rst (t : Arg) (s : State) : (sleepEnded t s).rst = s.rst := rfl
@[simp] theorem sleepEnded_addrI (t : Arg) (s : State) : (sleepEnded t s).addrI = s.addrI := rfl
@[simp] theorem sleepEnded_linesI (t : Arg) (s : State) : (sleepEnded t s).linesI = s.linesI := rfl
@[simp] theorem sleepEnded_reqValid (t : Arg) (s : State) : (sleepEnded t s).reqValid = s.reqValid := rfl
@[simp] theorem sleepEnded_req (t : Arg) (s : State) : (sleepEnded t s).req = s.req := rfl
@[simp] theorem sleepEnded_port (t : Arg) (s : State) : (sleepEnded t s).port = s.port := rfl
@[simp] theorem sleepEnded_nph (t : Arg) (s : State) : (sleepEnded t s).nph = s.nph := rfl
@[simp] theorem sleepEnded_inputs (t : Arg) (s : State) : (sleepEnded t s).inputs = s.inputs := rfl
@[simp] theorem sleepEnded_trace (t : Arg) (s : State) : (sleepEnded t s).trace = s.trace ++ [.sleep t] := rfl
@[simp] theorem sleepEnded_draws (t : Arg) (s : State) : (sleepEnded t s).draws = s.draws := rfl

@[simp] theorem skipSleep_cfg (s : State) : (skipSleep s).cfg = s.cfg := rfl
@[simp] theorem skipSleep_opq (s : State) : (skipSleep s).opq = s.opq := rfl
@[simp] theorem skipSleep_blq (s : State) : (skipSleep s).blq = s.blq := rfl
@[simp] theorem skipSleep_argq (s : State) : (skipSleep s).argq = s.argq := rfl
@[simp] theorem skipSleep_upc (s : State) : (skipSleep s).upc = s.upc + 1#5 := rfl
@[simp] theorem skipSleep_ph (s : State) : (skipSleep s).ph = s.ph := rfl
@[simp] theorem skipSleep_addr (s : State) : (skipSleep s).addr = s.addr := rfl
@[simp] theorem skipSleep_linesq (s : State) : (skipSleep s).linesq = s.linesq := rfl
@[simp] theorem skipSleep_rst (s : State) : (skipSleep s).rst = s.rst := rfl
@[simp] theorem skipSleep_addrI (s : State) : (skipSleep s).addrI = s.addrI := rfl
@[simp] theorem skipSleep_linesI (s : State) : (skipSleep s).linesI = s.linesI := rfl
@[simp] theorem skipSleep_reqValid (s : State) : (skipSleep s).reqValid = s.reqValid := rfl
@[simp] theorem skipSleep_req (s : State) : (skipSleep s).req = s.req := rfl
@[simp] theorem skipSleep_port (s : State) : (skipSleep s).port = s.port := rfl
@[simp] theorem skipSleep_nph (s : State) : (skipSleep s).nph = s.nph := rfl
@[simp] theorem skipSleep_inputs (s : State) : (skipSleep s).inputs = s.inputs := rfl
@[simp] theorem skipSleep_trace (s : State) : (skipSleep s).trace = s.trace := rfl
@[simp] theorem skipSleep_draws (s : State) : (skipSleep s).draws = s.draws := rfl

@[simp] theorem releaseReset_cfg (s : State) : (releaseReset s).cfg = s.cfg := rfl
@[simp] theorem releaseReset_opq (s : State) : (releaseReset s).opq = s.opq := rfl
@[simp] theorem releaseReset_blq (s : State) : (releaseReset s).blq = s.blq := rfl
@[simp] theorem releaseReset_argq (s : State) : (releaseReset s).argq = s.argq := rfl
@[simp] theorem releaseReset_upc (s : State) : (releaseReset s).upc = 0#5 := rfl
@[simp] theorem releaseReset_ph (s : State) : (releaseReset s).ph = .por := rfl
@[simp] theorem releaseReset_addr (s : State) : (releaseReset s).addr = s.addrI := rfl
@[simp] theorem releaseReset_linesq (s : State) : (releaseReset s).linesq = clampLines s.linesI := rfl
@[simp] theorem releaseReset_rst (s : State) : (releaseReset s).rst = false := rfl
@[simp] theorem releaseReset_addrI (s : State) : (releaseReset s).addrI = s.addrI := rfl
@[simp] theorem releaseReset_linesI (s : State) : (releaseReset s).linesI = s.linesI := rfl
@[simp] theorem releaseReset_reqValid (s : State) : (releaseReset s).reqValid = s.reqValid := rfl
@[simp] theorem releaseReset_req (s : State) : (releaseReset s).req = s.req := rfl
@[simp] theorem releaseReset_port (s : State) : (releaseReset s).port = s.port := rfl
@[simp] theorem releaseReset_nph (s : State) : (releaseReset s).nph = s.nph := rfl
@[simp] theorem releaseReset_inputs (s : State) : (releaseReset s).inputs = s.inputs := rfl
@[simp] theorem releaseReset_trace (s : State) : (releaseReset s).trace = s.trace := rfl
@[simp] theorem releaseReset_draws (s : State) : (releaseReset s).draws = s.draws := rfl

@[simp] theorem latchRequest_cfg (op : BitVec 3) (bl : Bit) (arg : Arg) (s : State) : (latchRequest op bl arg s).cfg = s.cfg := rfl
@[simp] theorem latchRequest_opq (op : BitVec 3) (bl : Bit) (arg : Arg) (s : State) : (latchRequest op bl arg s).opq = op := rfl
@[simp] theorem latchRequest_blq (op : BitVec 3) (bl : Bit) (arg : Arg) (s : State) : (latchRequest op bl arg s).blq = bl := rfl
@[simp] theorem latchRequest_argq (op : BitVec 3) (bl : Bit) (arg : Arg) (s : State) : (latchRequest op bl arg s).argq = arg := rfl
@[simp] theorem latchRequest_upc (op : BitVec 3) (bl : Bit) (arg : Arg) (s : State) : (latchRequest op bl arg s).upc = s.upc := rfl
@[simp] theorem latchRequest_ph (op : BitVec 3) (bl : Bit) (arg : Arg) (s : State) : (latchRequest op bl arg s).ph = s.ph := rfl
@[simp] theorem latchRequest_addr (op : BitVec 3) (bl : Bit) (arg : Arg) (s : State) : (latchRequest op bl arg s).addr = s.addr := rfl
@[simp] theorem latchRequest_linesq (op : BitVec 3) (bl : Bit) (arg : Arg) (s : State) : (latchRequest op bl arg s).linesq = s.linesq := rfl
@[simp] theorem latchRequest_rst (op : BitVec 3) (bl : Bit) (arg : Arg) (s : State) : (latchRequest op bl arg s).rst = s.rst := rfl
@[simp] theorem latchRequest_addrI (op : BitVec 3) (bl : Bit) (arg : Arg) (s : State) : (latchRequest op bl arg s).addrI = s.addrI := rfl
@[simp] theorem latchRequest_linesI (op : BitVec 3) (bl : Bit) (arg : Arg) (s : State) : (latchRequest op bl arg s).linesI = s.linesI := rfl
@[simp] theorem latchRequest_reqValid (op : BitVec 3) (bl : Bit) (arg : Arg) (s : State) : (latchRequest op bl arg s).reqValid = false := rfl
@[simp] theorem latchRequest_req (op : BitVec 3) (bl : Bit) (arg : Arg) (s : State) : (latchRequest op bl arg s).req = s.req := rfl
@[simp] theorem latchRequest_port (op : BitVec 3) (bl : Bit) (arg : Arg) (s : State) : (latchRequest op bl arg s).port = s.port := rfl
@[simp] theorem latchRequest_nph (op : BitVec 3) (bl : Bit) (arg : Arg) (s : State) : (latchRequest op bl arg s).nph = s.nph := rfl
@[simp] theorem latchRequest_inputs (op : BitVec 3) (bl : Bit) (arg : Arg) (s : State) : (latchRequest op bl arg s).inputs = s.inputs := rfl
@[simp] theorem latchRequest_trace (op : BitVec 3) (bl : Bit) (arg : Arg) (s : State) : (latchRequest op bl arg s).trace = s.trace := rfl
@[simp] theorem latchRequest_draws (op : BitVec 3) (bl : Bit) (arg : Arg) (s : State) : (latchRequest op bl arg s).draws = s.draws := rfl

@[simp] theorem acceptRequest_cfg (op : BitVec 3) (bl : Bit) (arg : Arg) (s : State) : (acceptRequest op bl arg s).cfg = s.cfg := rfl
@[simp] theorem acceptRequest_opq (op : BitVec 3) (bl : Bit) (arg : Arg) (s : State) : (acceptRequest op bl arg s).opq = op := rfl
@[simp] theorem acceptRequest_blq (op : BitVec 3) (bl : Bit) (arg : Arg) (s : State) : (acceptRequest op bl arg s).blq = bl := rfl
@[simp] theorem acceptRequest_argq (op : BitVec 3) (bl : Bit) (arg : Arg) (s : State) : (acceptRequest op bl arg s).argq = arg := rfl
@[simp] theorem acceptRequest_upc (op : BitVec 3) (bl : Bit) (arg : Arg) (s : State) : (acceptRequest op bl arg s).upc = 0#5 := rfl
@[simp] theorem acceptRequest_ph (op : BitVec 3) (bl : Bit) (arg : Arg) (s : State) : (acceptRequest op bl arg s).ph = .busy := rfl
@[simp] theorem acceptRequest_addr (op : BitVec 3) (bl : Bit) (arg : Arg) (s : State) : (acceptRequest op bl arg s).addr = s.addr := rfl
@[simp] theorem acceptRequest_linesq (op : BitVec 3) (bl : Bit) (arg : Arg) (s : State) : (acceptRequest op bl arg s).linesq = s.linesq := rfl
@[simp] theorem acceptRequest_rst (op : BitVec 3) (bl : Bit) (arg : Arg) (s : State) : (acceptRequest op bl arg s).rst = s.rst := rfl
@[simp] theorem acceptRequest_addrI (op : BitVec 3) (bl : Bit) (arg : Arg) (s : State) : (acceptRequest op bl arg s).addrI = s.addrI := rfl
@[simp] theorem acceptRequest_linesI (op : BitVec 3) (bl : Bit) (arg : Arg) (s : State) : (acceptRequest op bl arg s).linesI = s.linesI := rfl
@[simp] theorem acceptRequest_reqValid (op : BitVec 3) (bl : Bit) (arg : Arg) (s : State) : (acceptRequest op bl arg s).reqValid = false := rfl
@[simp] theorem acceptRequest_req (op : BitVec 3) (bl : Bit) (arg : Arg) (s : State) : (acceptRequest op bl arg s).req = s.req := rfl
@[simp] theorem acceptRequest_port (op : BitVec 3) (bl : Bit) (arg : Arg) (s : State) : (acceptRequest op bl arg s).port = s.port := rfl
@[simp] theorem acceptRequest_nph (op : BitVec 3) (bl : Bit) (arg : Arg) (s : State) : (acceptRequest op bl arg s).nph = s.nph := rfl
@[simp] theorem acceptRequest_inputs (op : BitVec 3) (bl : Bit) (arg : Arg) (s : State) : (acceptRequest op bl arg s).inputs = s.inputs := rfl
@[simp] theorem acceptRequest_trace (op : BitVec 3) (bl : Bit) (arg : Arg) (s : State) : (acceptRequest op bl arg s).trace = s.trace := rfl
@[simp] theorem acceptRequest_draws (op : BitVec 3) (bl : Bit) (arg : Arg) (s : State) : (acceptRequest op bl arg s).draws = s.draws := rfl

@[simp] theorem finish_cfg (s : State) : (finish s).cfg = s.cfg := by cases h : s.ph <;> simp [finish, respond, h]
@[simp] theorem finish_opq (s : State) : (finish s).opq = s.opq := by cases h : s.ph <;> simp [finish, respond, h]
@[simp] theorem finish_blq (s : State) : (finish s).blq = s.blq := by cases h : s.ph <;> simp [finish, respond, h]
@[simp] theorem finish_argq (s : State) : (finish s).argq = s.argq := by cases h : s.ph <;> simp [finish, respond, h]
@[simp] theorem finish_addr (s : State) : (finish s).addr = s.addr := by cases h : s.ph <;> simp [finish, respond, h]
@[simp] theorem finish_linesq (s : State) : (finish s).linesq = s.linesq := by cases h : s.ph <;> simp [finish, respond, h]
@[simp] theorem finish_rst (s : State) : (finish s).rst = s.rst := by cases h : s.ph <;> simp [finish, respond, h]
@[simp] theorem finish_addrI (s : State) : (finish s).addrI = s.addrI := by cases h : s.ph <;> simp [finish, respond, h]
@[simp] theorem finish_linesI (s : State) : (finish s).linesI = s.linesI := by cases h : s.ph <;> simp [finish, respond, h]
@[simp] theorem finish_reqValid (s : State) : (finish s).reqValid = s.reqValid := by cases h : s.ph <;> simp [finish, respond, h]
@[simp] theorem finish_req (s : State) : (finish s).req = s.req := by cases h : s.ph <;> simp [finish, respond, h]
@[simp] theorem finish_port (s : State) : (finish s).port = s.port := by cases h : s.ph <;> simp [finish, respond, h]
@[simp] theorem finish_inputs (s : State) : (finish s).inputs = s.inputs := by cases h : s.ph <;> simp [finish, respond, h]
@[simp] theorem finish_draws (s : State) : (finish s).draws = s.draws := by cases h : s.ph <;> simp [finish, respond, h]

@[simp] theorem raiseBusError_cfg (s : State) : (raiseBusError s).cfg = s.cfg := by cases h : s.ph <;> simp [raiseBusError, respond, h]
@[simp] theorem raiseBusError_opq (s : State) : (raiseBusError s).opq = s.opq := by cases h : s.ph <;> simp [raiseBusError, respond, h]
@[simp] theorem raiseBusError_blq (s : State) : (raiseBusError s).blq = s.blq := by cases h : s.ph <;> simp [raiseBusError, respond, h]
@[simp] theorem raiseBusError_argq (s : State) : (raiseBusError s).argq = s.argq := by cases h : s.ph <;> simp [raiseBusError, respond, h]
@[simp] theorem raiseBusError_addr (s : State) : (raiseBusError s).addr = s.addr := by cases h : s.ph <;> simp [raiseBusError, respond, h]
@[simp] theorem raiseBusError_linesq (s : State) : (raiseBusError s).linesq = s.linesq := by cases h : s.ph <;> simp [raiseBusError, respond, h]
@[simp] theorem raiseBusError_rst (s : State) : (raiseBusError s).rst = s.rst := by cases h : s.ph <;> simp [raiseBusError, respond, h]
@[simp] theorem raiseBusError_addrI (s : State) : (raiseBusError s).addrI = s.addrI := by cases h : s.ph <;> simp [raiseBusError, respond, h]
@[simp] theorem raiseBusError_linesI (s : State) : (raiseBusError s).linesI = s.linesI := by cases h : s.ph <;> simp [raiseBusError, respond, h]
@[simp] theorem raiseBusError_reqValid (s : State) : (raiseBusError s).reqValid = s.reqValid := by cases h : s.ph <;> simp [raiseBusError, respond, h]
@[simp] theorem raiseBusError_req (s : State) : (raiseBusError s).req = s.req := by cases h : s.ph <;> simp [raiseBusError, respond, h]
@[simp] theorem raiseBusError_port (s : State) : (raiseBusError s).port = s.port := by cases h : s.ph <;> simp [raiseBusError, respond, h]
@[simp] theorem raiseBusError_nph (s : State) : (raiseBusError s).nph = s.nph := by cases h : s.ph <;> simp [raiseBusError, respond, h]
@[simp] theorem raiseBusError_inputs (s : State) : (raiseBusError s).inputs = s.inputs := by cases h : s.ph <;> simp [raiseBusError, respond, h]
@[simp] theorem raiseBusError_draws (s : State) : (raiseBusError s).draws = s.draws := by cases h : s.ph <;> simp [raiseBusError, respond, h]

@[simp] theorem writeFailed_cfg (b : Byte) (s : State) : (writeFailed b s).cfg = s.cfg := by simp [writeFailed]
@[simp] theorem writeFailed_opq (b : Byte) (s : State) : (writeFailed b s).opq = s.opq := by simp [writeFailed]
@[simp] theorem writeFailed_blq (b : Byte) (s : State) : (writeFailed b s).blq = s.blq := by simp [writeFailed]
@[simp] theorem writeFailed_argq (b : Byte) (s : State) : (writeFailed b s).argq = s.argq := by simp [writeFailed]
@[simp] theorem writeFailed_addr (b : Byte) (s : State) : (writeFailed b s).addr = s.addr := by simp [writeFailed]
@[simp] theorem writeFailed_linesq (b : Byte) (s : State) : (writeFailed b s).linesq = s.linesq := by simp [writeFailed]
@[simp] theorem writeFailed_rst (b : Byte) (s : State) : (writeFailed b s).rst = s.rst := by simp [writeFailed]
@[simp] theorem writeFailed_addrI (b : Byte) (s : State) : (writeFailed b s).addrI = s.addrI := by simp [writeFailed]
@[simp] theorem writeFailed_linesI (b : Byte) (s : State) : (writeFailed b s).linesI = s.linesI := by simp [writeFailed]
@[simp] theorem writeFailed_reqValid (b : Byte) (s : State) : (writeFailed b s).reqValid = s.reqValid := by simp [writeFailed]
@[simp] theorem writeFailed_req (b : Byte) (s : State) : (writeFailed b s).req = s.req := by simp [writeFailed]
@[simp] theorem writeFailed_port (b : Byte) (s : State) : (writeFailed b s).port = Config.freePort s.draws := by simp [writeFailed]
@[simp] theorem writeFailed_nph (b : Byte) (s : State) : (writeFailed b s).nph = .unknown := by simp [writeFailed]
@[simp] theorem writeFailed_inputs (b : Byte) (s : State) : (writeFailed b s).inputs = s.inputs := by simp [writeFailed]
@[simp] theorem writeFailed_draws (b : Byte) (s : State) : (writeFailed b s).draws = s.draws + 1 := by simp [writeFailed]

@[simp] theorem abandon_cfg (s : State) : (abandon s).cfg = s.cfg := by unfold abandon; split <;> (try split) <;> rfl
@[simp] theorem abandon_opq (s : State) : (abandon s).opq = s.opq := by unfold abandon; split <;> (try split) <;> rfl
@[simp] theorem abandon_blq (s : State) : (abandon s).blq = s.blq := by unfold abandon; split <;> (try split) <;> rfl
@[simp] theorem abandon_argq (s : State) : (abandon s).argq = s.argq := by unfold abandon; split <;> (try split) <;> rfl
@[simp] theorem abandon_upc (s : State) : (abandon s).upc = s.upc := by unfold abandon; split <;> (try split) <;> rfl
@[simp] theorem abandon_ph (s : State) : (abandon s).ph = s.ph := by unfold abandon; split <;> (try split) <;> rfl
@[simp] theorem abandon_addr (s : State) : (abandon s).addr = s.addr := by unfold abandon; split <;> (try split) <;> rfl
@[simp] theorem abandon_linesq (s : State) : (abandon s).linesq = s.linesq := by unfold abandon; split <;> (try split) <;> rfl
@[simp] theorem abandon_rst (s : State) : (abandon s).rst = s.rst := by unfold abandon; split <;> (try split) <;> rfl
@[simp] theorem abandon_addrI (s : State) : (abandon s).addrI = s.addrI := by unfold abandon; split <;> (try split) <;> rfl
@[simp] theorem abandon_linesI (s : State) : (abandon s).linesI = s.linesI := by unfold abandon; split <;> (try split) <;> rfl
@[simp] theorem abandon_reqValid (s : State) : (abandon s).reqValid = s.reqValid := by unfold abandon; split <;> (try split) <;> rfl
@[simp] theorem abandon_req (s : State) : (abandon s).req = s.req := by unfold abandon; split <;> (try split) <;> rfl
@[simp] theorem abandon_port (s : State) : (abandon s).port = s.port := by unfold abandon; split <;> (try split) <;> rfl
@[simp] theorem abandon_nph (s : State) : (abandon s).nph = s.nph := by unfold abandon; split <;> (try split) <;> rfl
@[simp] theorem abandon_inputs (s : State) : (abandon s).inputs = s.inputs := by unfold abandon; split <;> (try split) <;> rfl
@[simp] theorem abandon_draws (s : State) : (abandon s).draws = s.draws := by unfold abandon; split <;> (try split) <;> rfl

@[simp] theorem assertReset_cfg (s : State) : (assertReset s).cfg = s.cfg := by simp [assertReset]
@[simp] theorem assertReset_opq (s : State) : (assertReset s).opq = Config.freeOpq s.draws := by simp [assertReset]
@[simp] theorem assertReset_blq (s : State) : (assertReset s).blq = Config.freeBlq s.draws := by simp [assertReset]
@[simp] theorem assertReset_argq (s : State) : (assertReset s).argq = Config.freeArgq s.draws := by simp [assertReset]
@[simp] theorem assertReset_upc (s : State) : (assertReset s).upc = 0#5 := by simp [assertReset]
@[simp] theorem assertReset_ph (s : State) : (assertReset s).ph = .por := by simp [assertReset]
@[simp] theorem assertReset_addr (s : State) : (assertReset s).addr = s.addr := by simp [assertReset]
@[simp] theorem assertReset_linesq (s : State) : (assertReset s).linesq = s.linesq := by simp [assertReset]
@[simp] theorem assertReset_rst (s : State) : (assertReset s).rst = true := by simp [assertReset]
@[simp] theorem assertReset_addrI (s : State) : (assertReset s).addrI = s.addrI := by simp [assertReset]
@[simp] theorem assertReset_linesI (s : State) : (assertReset s).linesI = s.linesI := by simp [assertReset]
@[simp] theorem assertReset_reqValid (s : State) : (assertReset s).reqValid = s.reqValid := by simp [assertReset]
@[simp] theorem assertReset_req (s : State) : (assertReset s).req = s.req := by simp [assertReset]
@[simp] theorem assertReset_port (s : State) : (assertReset s).port = Config.freePort s.draws := by simp [assertReset]
@[simp] theorem assertReset_nph (s : State) : (assertReset s).nph = .unknown := by simp [assertReset]
@[simp] theorem assertReset_inputs (s : State) : (assertReset s).inputs = s.inputs := by simp [assertReset]
@[simp] theorem assertReset_trace (s : State) : (assertReset s).trace = (abandon s).trace := by simp [assertReset]
@[simp] theorem assertReset_draws (s : State) : (assertReset s).draws = s.draws + 1 := by simp [assertReset]

end Sys2Proof.Machine
end

