-- ==== Sys2Proof/Laws/Engine.lean ====
section
/-! SUPPORT. What the engine can do, said once: it stops at once when nothing runs, it performs a micro-program
whose answers are at hand, and whatever its moves keep, a step keeps. -/

namespace Sys2Proof.Machine

/-! ## The shape of `current` -/

theorem current_of_not_running {s : State} (h : s.running = false) : s.current = none := by
  simp [State.current, h]

theorem current_some {s : State} {op : MicroOp} (h : s.current = some op) :
    s.running = true ∧ s.program[s.upc.toNat]? = some op := by
  cases hr : s.running <;> simp_all [State.current]

theorem upc_lt_of_current {s : State} {op : MicroOp} (h : s.current = some op) :
    s.upc.toNat < s.program.length :=
  (List.getElem?_eq_some_iff.mp (current_some h).2).1

theorem requestProgram_length_le (c : Config) (opq : BitVec 3) (blq : Bit) (argq : Arg) :
    (requestProgram c opq blq argq).length ≤ 5 := by
  unfold requestProgram
  split <;> simp [progWrcmd, progWrdata, progBlon, progBloff, progDelay, xfer, strobe]
  split <;> simp

theorem progPorseq_length_le (c : Config) (l : BitVec 3) : (progPorseq c l).length ≤ 18 := by
  simp only [progPorseq, progWrcmd, progWrinit, xfer, strobe, List.length_append]
  split <;> simp

theorem program_length_le (s : State) : s.program.length ≤ 18 := by
  have h1 := requestProgram_length_le s.cfg s.opq s.blq s.argq
  have h2 := progPorseq_length_le s.cfg s.linesq
  unfold State.program
  split <;> simp <;> omega

/-- `UPC + 1` does not wrap while a micro-operation is being performed (R24). -/
theorem upc_succ_toNat {s : State} {op : MicroOp} (h : s.current = some op) :
    (s.upc + 1#5).toNat = s.upc.toNat + 1 := by
  have h1 := upc_lt_of_current h
  have h2 := program_length_le s
  rw [BitVec.toNat_add]
  simp
  omega

@[simp] theorem program_with_inputs (s : State) (l : List Input) :
    ({ s with inputs := l } : State).program = s.program := rfl
@[simp] theorem running_with_inputs (s : State) (l : List Input) :
    ({ s with inputs := l } : State).running = s.running := rfl
@[simp] theorem writeSucceeded_program (b : Byte) (s : State) : (writeSucceeded b s).program = s.program := rfl
@[simp] theorem sleepEnded_program (t : Arg) (s : State) : (sleepEnded t s).program = s.program := rfl
@[simp] theorem skipSleep_program (s : State) : (skipSleep s).program = s.program := rfl
@[simp] theorem skipSleep_running (s : State) : (skipSleep s).running = s.running := rfl

/-! ## Nothing runs -/

theorem skipSleeps_halted {s : State} (h : s.current ≠ some (.sleep 0#16)) (stop fuel : Nat) :
    skipSleeps stop fuel s = s := by
  cases fuel with
  | zero => rfl
  | succ n => rw [skipSleeps, if_neg (fun hc => h hc.2)]

theorem settleTo_halted {s : State} (h : s.running = false) (stop : Nat) : settleTo stop s = s := by
  simp [settleTo, skipSleeps_halted (s := s) (by simp [current_of_not_running h]), State.atEnd, h]

theorem runInputs_halted {s : State} (h : s.running = false) (stop : Nat) (ins : List Input) :
    runInputs stop ins s = s := by
  cases ins <;> simp [runInputs, settleTo_halted h, State.owes, h]

/-- A finished micro-program ends whatever inputs are left. -/
theorem runInputs_atEnd {s : State} (h : s.atEnd = true) (stop : Nat) (ins : List Input) :
    runInputs stop ins s = finish s := by
  have hr : s.running = true := by
    simp only [State.atEnd, Bool.and_eq_true] at h
    exact h.1
  have hc : s.current ≠ some (.sleep 0#16) := by
    intro hc
    have := upc_lt_of_current hc
    simp [State.atEnd] at h
    omega
  have hs : settleTo stop s = finish s := by simp [settleTo, skipSleeps_halted hc, h]
  have hf : (finish s).running = false := by
    cases hp : s.ph <;> simp_all [finish, State.running, respond]
  cases ins <;> simp [runInputs, hs, State.owes, hf]

/-! ## Zero sleeps -/

theorem skipSleeps_fuel (stop n : Nat) (s : State) (h : s.program.length - s.upc.toNat ≤ n) :
    skipSleeps stop (n + 1) s = skipSleeps stop n s := by
  induction n generalizing s with
  | zero =>
    have hc : s.current ≠ some (.sleep 0#16) := by
      intro hc
      have := upc_lt_of_current hc
      omega
    rw [skipSleeps_halted hc, skipSleeps_halted hc]
  | succ n ih =>
    by_cases hc : s.upc.toNat < stop ∧ s.current = some (.sleep 0#16)
    · have hu := upc_succ_toNat hc.2
      have e : ∀ m, skipSleeps stop (m + 1) s = skipSleeps stop m (skipSleep s) := fun m => by
        rw [skipSleeps, if_pos hc]
      rw [e, e]
      exact ih _ (by simp only [skipSleep_program, skipSleep_upc, hu]; omega)
    · have e : ∀ m, skipSleeps stop (m + 1) s = s := fun m => by rw [skipSleeps, if_neg hc]
      rw [e, e]

theorem settleTo_skip {s : State} {stop : Nat} (hc : s.current = some (.sleep 0#16)) (hs : s.upc.toNat < stop) :
    settleTo stop s = settleTo stop (skipSleep s) := by
  have hlt := upc_lt_of_current hc
  have key : skipSleeps stop s.program.length s =
      skipSleeps stop (skipSleep s).program.length (skipSleep s) := by
    have hu := upc_succ_toNat hc
    obtain ⟨n, hn⟩ : ∃ n, s.program.length = n + 1 := ⟨s.program.length - 1, by omega⟩
    rw [skipSleep_program, hn, skipSleeps_fuel stop n (skipSleep s)
      (by simp only [skipSleep_program, skipSleep_upc, hu]; omega)]
    simp [skipSleeps, hs, hc]
  simp only [settleTo, key]

theorem runInputs_skip {s : State} {stop : Nat} (hc : s.current = some (.sleep 0#16)) (hs : s.upc.toNat < stop)
    (ins : List Input) : runInputs stop ins s = runInputs stop ins (skipSleep s) := by
  cases ins <;> simp [runInputs, settleTo_skip hc hs]

theorem settleTo_waiting {s : State} {op : MicroOp} (hc : s.current = some op) (h0 : op ≠ .sleep 0#16)
    (stop : Nat) : settleTo stop s = s := by
  have hlt := upc_lt_of_current hc
  have he : s.atEnd = false := by simp [State.atEnd]; omega
  have hk := skipSleeps_halted (s := s) (by rw [hc]; simpa using h0) stop s.program.length
  simp only [settleTo, hk, he]
  rfl

/-- A micro-operation that waits takes the next input. -/
theorem runInputs_waiting {s : State} {op : MicroOp} {stop : Nat} (hc : s.current = some op)
    (h0 : op ≠ .sleep 0#16) (hs : s.upc.toNat < stop) (i : Input) (rest : List Input) :
    runInputs stop (i :: rest) s = runInputs stop rest (onInput i { s with inputs := rest }) := by
  simp [runInputs, settleTo_waiting hc h0, State.owes, (current_some hc).1, hs]

/-! ## A micro-program whose answers are at hand -/

/-- The effect of these micro-operations when none fails. -/
def performOps : List MicroOp → State → State
  | [], s => s
  | .write b :: ops, s => performOps ops (writeSucceeded b s)
  | .sleep t :: ops, s => performOps ops (if t = 0#16 then skipSleep s else sleepEnded t s)

theorem current_with_inputs (s : State) (l : List Input) : ({ s with inputs := l } : State).current = s.current := rfl

theorem prefix_drop_succ {α : Type} {l ops : List α} {n : Nat} {a : α} (h : a :: ops <+: l.drop n) :
    l[n]? = some a ∧ ops <+: l.drop (n + 1) := by
  obtain ⟨r, hr⟩ := h
  have h0 : l[n]? = some a := by
    have := congrArg (·[0]?) hr
    simpa using this.symm
  refine ⟨h0, r, ?_⟩
  have := congrArg (List.drop 1) hr
  simpa [List.drop_drop, Nat.add_comm] using this

/-- The engine performs micro-operations that stand next in its program when their answers are at hand. -/
theorem runInputs_performs (ops : List MicroOp) (stop : Nat) (rest : List Input) (s : State)
    (hr : s.running = true) (hp : ops <+: s.program.drop s.upc.toNat)
    (hs : s.upc.toNat + ops.length ≤ stop) (hi : s.inputs = answersOf ops ++ rest) :
    runInputs stop s.inputs s = runInputs stop rest (performOps ops { s with inputs := rest }) := by
  induction ops generalizing s with
  | nil => simp [answersOf] at hi; subst hi; rfl
  | cons op ops ih =>
    obtain ⟨h0, hp'⟩ := prefix_drop_succ hp
    have hc : s.current = some op := by simp [State.current, hr, h0]
    have hu := upc_succ_toNat hc
    simp only [List.length_cons] at hs
    have hlt : s.upc.toNat < stop := by omega
    have next : ∀ u : State, u.running = true → u.program = s.program → u.upc = s.upc + 1#5 →
        u.inputs = answersOf ops ++ rest →
        runInputs stop u.inputs u = runInputs stop rest (performOps ops { u with inputs := rest }) := by
      intro u h1 h2 h3 h4
      exact ih u h1 (by rw [h2, h3, hu]; exact hp') (by rw [h3, hu]; omega) h4
    cases op with
    | write b =>
      have hon : onInput (.bwDone false) { s with inputs := answersOf ops ++ rest } =
          writeSucceeded b { s with inputs := answersOf ops ++ rest } := by
        simp [onInput, answerWrite, current_with_inputs, hc]
      rw [hi, answersOf, List.cons_append, runInputs_waiting hc (by simp) hlt, hon]
      exact next (writeSucceeded b { s with inputs := answersOf ops ++ rest }) hr rfl rfl rfl
    | sleep t =>
      by_cases ht : t = 0#16
      · subst ht
        rw [runInputs_skip hc hlt]
        exact next (skipSleep s) hr rfl rfl (by simpa [answersOf] using hi)
      · have hon : onInput .tmDone { s with inputs := answersOf ops ++ rest } =
            sleepEnded t { s with inputs := answersOf ops ++ rest } := by
          simp [onInput, endSleep, current_with_inputs, hc, if_neg ht]
        rw [hi, answersOf, if_neg ht, List.cons_append, runInputs_waiting hc (by simpa using ht) hlt, hon,
          performOps, if_neg ht]
        exact next (sleepEnded t { s with inputs := answersOf ops ++ rest }) hr rfl rfl rfl

/-- The effect of micro-operations none of which fails, field by field. -/
theorem performOps_eq (ops : List MicroOp) (s : State) :
    performOps ops s =
      { s with port := portAfter s.port (writesOf ops), nph := s.nph.afterWrites s.port (writesOf ops),
               trace := s.trace ++ eventsOf s.addr ops, upc := s.upc + BitVec.ofNat 5 ops.length } := by
  induction ops generalizing s with
  | nil => simp [performOps, portAfter, writesOf, NibblePhase.afterWrites, eventsOf]
  | cons op ops ih =>
    have hu : s.upc + BitVec.ofNat 5 (ops.length + 1) = s.upc + 1#5 + BitVec.ofNat 5 ops.length := by
      rw [BitVec.ofNat_add, BitVec.add_comm (BitVec.ofNat 5 ops.length), ← BitVec.add_assoc]
    rw [List.length_cons, hu]
    cases op with
    | write b =>
      rw [performOps, ih]
      simp [writeSucceeded, portAfter, writesOf, NibblePhase.afterWrites, eventsOf]
    | sleep t =>
      by_cases ht : t = 0#16
      · rw [performOps, if_pos ht, ih]
        simp [skipSleep, writesOf, eventsOf, ht]
      · rw [performOps, if_neg ht, ih]
        simp [sleepEnded, writesOf, eventsOf, if_neg ht]

@[simp] theorem performOps_running (ops : List MicroOp) (s : State) : (performOps ops s).running = s.running := by
  rw [performOps_eq]; rfl
@[simp] theorem performOps_program (ops : List MicroOp) (s : State) : (performOps ops s).program = s.program := by
  rw [performOps_eq]; rfl

/-- Inside its program, a performed stretch moves `UPC` by its length. -/
theorem performOps_upc {ops : List MicroOp} {s : State} (hp : ops <+: s.program.drop s.upc.toNat) :
    (performOps ops s).upc.toNat = s.upc.toNat + ops.length ∨ ops = [] := by
  rcases ops with _ | ⟨op, ops⟩
  · exact .inr rfl
  · have h1 := hp.length_le
    have h2 := program_length_le s
    simp only [List.length_drop, List.length_cons] at h1
    rw [performOps_eq]
    simp only [BitVec.toNat_add, BitVec.toNat_ofNat, List.length_cons]
    omega

/-- A micro-program whose answers are at hand, performed to its last micro-operation, ends. -/
theorem runInputs_completes (ops : List MicroOp) (rest : List Input) (s : State) (hr : s.running = true)
    (hp : s.program.drop s.upc.toNat = ops) (hu : s.upc.toNat ≤ s.program.length)
    (hi : s.inputs = answersOf ops ++ rest) :
    runInputs s.program.length s.inputs s = finish (performOps ops { s with inputs := rest }) := by
  have hl : s.upc.toNat + ops.length = s.program.length := by rw [← hp, List.length_drop]; omega
  rw [runInputs_performs ops _ rest s hr (by rw [hp]) (by omega) hi, runInputs_atEnd]
  have h := performOps_upc (s := { s with inputs := rest }) (ops := ops) (by simp [hp])
  simp only [State.atEnd, performOps_running, performOps_program, running_with_inputs, hr, program_with_inputs,
    Bool.true_and, decide_eq_true_eq]
  rcases h with h | h
  · rw [h]
    simp only
    omega
  · subst h
    simp only [performOps]
    simp at hl
    omega

/-- A micro-program in which the write after `pre` fails (R172). -/
theorem runInputs_fails (pre post : List MicroOp) (b : Byte) (stop : Nat) (rest : List Input) (s : State)
    (hr : s.running = true) (hp : s.program.drop s.upc.toNat = pre ++ .write b :: post)
    (hs : s.upc.toNat + pre.length < stop) (hi : s.inputs = answersOf pre ++ .bwDone true :: rest) :
    runInputs stop s.inputs s = writeFailed b (performOps pre { s with inputs := rest }) := by
  have hpre : pre <+: s.program.drop s.upc.toNat := by rw [hp]; exact List.prefix_append _ _
  have hget : s.program[s.upc.toNat + pre.length]? = some (.write b) := by
    have := congrArg (·[pre.length]?) hp
    simpa using this
  rw [runInputs_performs pre stop (.bwDone true :: rest) s hr hpre (by omega) hi]
  generalize hv : performOps pre { s with inputs := .bwDone true :: rest } = v
  have hvp : v.program = s.program := by rw [← hv]; simp
  have hvr : v.running = true := by rw [← hv]; simpa using hr
  have hvu : v.upc.toNat = s.upc.toNat + pre.length := by
    rcases performOps_upc (s := { s with inputs := .bwDone true :: rest }) (ops := pre) (by simpa using hpre) with h | h
    · rw [← hv, h]
    · subst h; rw [← hv]; rfl
  have hc : v.current = some (.write b) := by rw [State.current, if_pos hvr, hvp, hvu, hget]
  have hw : ({ v with inputs := rest } : State) = performOps pre { s with inputs := rest } := by
    rw [← hv, performOps_eq, performOps_eq]
  have hon : onInput (.bwDone true) { v with inputs := rest } = writeFailed b { v with inputs := rest } := by
    simp [onInput, answerWrite, current_with_inputs, hc]
  rw [runInputs_waiting hc (by simp) (by omega), hon, runInputs_halted, hw]
  rcases hph : v.ph with _ | _ | _ | _ <;>
    simp_all [writeFailed, raiseBusError, respond, State.running]

/-- A micro-program that runs and is not at its end performs some micro-operation. -/
theorem current_of_running {s : State} (hr : s.running = true) (he : s.atEnd = false) :
    ∃ op, s.current = some op := by
  have h : s.upc.toNat < s.program.length := by simpa [State.atEnd, hr] using he
  exact ⟨s.program[s.upc.toNat], by rw [State.current, if_pos hr, List.getElem?_eq_getElem h]⟩

/-! ## The inputs a state carries do not matter to a move -/

theorem finish_with_inputs (s : State) (l : List Input) :
    finish { s with inputs := l } = { finish s with inputs := l } := by
  unfold finish
  simp only
  split <;> rfl

theorem onInput_with_inputs (i : Input) (s : State) (l : List Input) :
    onInput i { s with inputs := l } = { onInput i s with inputs := l } := by
  cases i with
  | rst level =>
    cases level <;> simp only [onInput] <;> split <;> try rfl
    simp only [assertReset, abandon, current_with_inputs]
    split <;> (try split) <;> rfl
  | bwDone err =>
    simp only [onInput, answerWrite, current_with_inputs]
    split
    · cases err
      · rfl
      · simp only [writeFailed, raiseBusError, if_true]
        split <;> rfl
    · rfl
    · rfl
  | tmDone =>
    simp only [onInput, endSleep, current_with_inputs]
    split <;> (try split) <;> rfl
  | straps _ _ | offer _ | withdraw => rfl

theorem skipSleeps_with_inputs (stop fuel : Nat) (s : State) (l : List Input) :
    skipSleeps stop fuel { s with inputs := l } = { skipSleeps stop fuel s with inputs := l } := by
  induction fuel generalizing s with
  | zero => rfl
  | succ n ih =>
    simp only [skipSleeps]
    rw [current_with_inputs]
    by_cases h : s.upc.toNat < stop ∧ s.current = some (.sleep 0#16)
    · rw [if_pos h, if_pos h]
      exact ih (skipSleep s)
    · rw [if_neg h, if_neg h]

theorem settleTo_with_inputs (stop : Nat) (s : State) (l : List Input) :
    settleTo stop { s with inputs := l } = { settleTo stop s with inputs := l } := by
  simp only [settleTo, program_with_inputs, skipSleeps_with_inputs]
  have he : ∀ u : State, ({ u with inputs := l } : State).atEnd = u.atEnd := fun _ => rfl
  rw [he]
  split
  · exact finish_with_inputs _ _
  · rfl

/-! ## Whatever the moves keep, a step keeps -/

theorem skipSleeps_induction (P : State → Prop)
    (hskip : ∀ s, P s → s.current = some (.sleep 0#16) → P (skipSleep s)) (stop fuel : Nat) (s : State) (h : P s) :
    P (skipSleeps stop fuel s) := by
  induction fuel generalizing s with
  | zero => exact h
  | succ n ih =>
    rw [skipSleeps]
    split
    case isTrue hc => exact ih _ (hskip s h hc.2)
    case isFalse => exact h

theorem settleTo_induction (P : State → Prop)
    (hskip : ∀ s, P s → s.current = some (.sleep 0#16) → P (skipSleep s))
    (hfin : ∀ s, P s → s.atEnd = true → P (finish s)) (stop : Nat) (s : State) (h : P s) :
    P (settleTo stop s) := by
  have h' := skipSleeps_induction P hskip stop s.program.length s h
  simp only [settleTo]
  split
  case isTrue he => exact hfin _ h' he
  case isFalse => exact h'

/-- After settling, a micro-program that still runs owes the micro-operation at `UPC`. -/
theorem settleTo_not_atEnd (stop : Nat) (s : State) : (settleTo stop s).atEnd = false := by
  simp only [settleTo]
  split
  case isTrue h =>
    generalize skipSleeps stop s.program.length s = u at h ⊢
    have hr : u.running = true := by
      simp only [State.atEnd, Bool.and_eq_true] at h
      exact h.1
    cases hp : u.ph <;> simp_all [finish, State.atEnd, State.running, respond]
  case isFalse h => simpa using h

/-- The engine's induction: an input is taken only while a micro-program runs that is not at its end. -/
theorem runInputs_induction (P : State → Prop)
    (hskip : ∀ s, P s → s.current = some (.sleep 0#16) → P (skipSleep s))
    (hfin : ∀ s, P s → s.atEnd = true → P (finish s))
    (hin : ∀ i rest s, P s → s.running = true → s.atEnd = false → P (onInput i { s with inputs := rest }))
    (stop : Nat) (ins : List Input) (s : State) (h : P s) : P (runInputs stop ins s) := by
  induction ins generalizing s with
  | nil => exact settleTo_induction P hskip hfin stop s h
  | cons i rest ih =>
    have h' := settleTo_induction P hskip hfin stop s h
    simp only [runInputs]
    split
    case isTrue ho =>
      simp only [State.owes, Bool.and_eq_true] at ho
      exact ih _ (hin i rest _ h' ho.1 (settleTo_not_atEnd stop s))
    case isFalse => exact h'

theorem runInputs_not_atEnd (stop : Nat) (ins : List Input) (s : State) :
    (runInputs stop ins s).atEnd = false := by
  induction ins generalizing s with
  | nil => exact settleTo_not_atEnd stop s
  | cons i rest ih =>
    simp only [runInputs]
    split
    case isTrue => exact ih _
    case isFalse => exact settleTo_not_atEnd stop s

/-- What an operation answers: the accepted request run by the engine, a rejected request, the sequencer's
operation run by the engine, or nothing. -/
theorem exec_cases {i : Instr} {s t : State} (h : exec i s = .next t) :
    (∃ op bl arg, s.reqReady = true ∧ op.toNat ≤ 4 ∧ t = resume (acceptRequest op bl arg s)) ∨
    (∃ op bl arg, s.reqReady = true ∧ t = respond .callerContractViolation (latchRequest op bl arg s)) ∨
    (∃ n, sequencerIssues s = some i ∧ t = runTo n s) ∨ t = s := by
  have hreq : ∀ op bl arg, op.toNat ≤ 4 → runRequest op bl arg s = t →
      (∃ op bl arg, s.reqReady = true ∧ op.toNat ≤ 4 ∧ t = resume (acceptRequest op bl arg s)) ∨ t = s := by
    intro op bl arg hop ht
    unfold runRequest at ht
    split at ht
    · exact .inl ⟨op, bl, arg, ‹_›, hop, ht.symm⟩
    · exact .inr ht.symm
  have hrej : ∀ op bl arg, rejectRequest op bl arg s = t →
      (∃ op bl arg, s.reqReady = true ∧ t = respond .callerContractViolation (latchRequest op bl arg s)) ∨ t = s := by
    intro op bl arg ht
    unfold rejectRequest at ht
    split at ht
    · exact .inl ⟨op, bl, arg, ‹_›, ht.symm⟩
    · exact .inr ht.symm
  have hint : ∀ len, runInternal i len s = t →
      (∃ n, sequencerIssues s = some i ∧ t = runTo n s) ∨ t = s := by
    intro len ht
    unfold runInternal at ht
    split at ht
    · exact .inl ⟨_, ‹_›, ht.symm⟩
    · exact .inr ht.symm
  cases i with
  | wrcmd bl ign c =>
    rcases hreq 0 bl _ (by decide) (by simpa [exec, execWrcmd] using h) with h | h
    · exact .inl h
    · exact .inr (.inr (.inr h))
  | wrdata bl ign d =>
    rcases hreq 1 bl _ (by decide) (by simpa [exec, execWrdata] using h) with h | h
    · exact .inl h
    · exact .inr (.inr (.inr h))
  | blon bl arg =>
    rcases hreq 2 bl _ (by decide) (by simpa [exec, execBlon] using h) with h | h
    · exact .inl h
    · exact .inr (.inr (.inr h))
  | bloff bl arg =>
    rcases hreq 3 bl _ (by decide) (by simpa [exec, execBloff] using h) with h | h
    · exact .inl h
    · exact .inr (.inr (.inr h))
  | delay bl t' =>
    rcases hreq 4 bl _ (by decide) (by simpa [exec, execDelay] using h) with h | h
    · exact .inl h
    · exact .inr (.inr (.inr h))
  | rsvd5 bl arg =>
    rcases hrej 5 bl arg (by simpa [exec, execRsvd5] using h) with h | h
    · exact .inr (.inl h)
    · exact .inr (.inr (.inr h))
  | rsvd6 bl arg =>
    rcases hrej 6 bl arg (by simpa [exec, execRsvd6] using h) with h | h
    · exact .inr (.inl h)
    · exact .inr (.inr (.inr h))
  | rsvd7 bl arg =>
    rcases hrej 7 bl arg (by simpa [exec, execRsvd7] using h) with h | h
    · exact .inr (.inl h)
    · exact .inr (.inr (.inr h))
  | wrinit n =>
    rcases hint _ (by simpa [exec, execWrinit] using h) with h | h
    · exact .inr (.inr (.inl h))
    · exact .inr (.inr (.inr h))
  | porseq lines =>
    rcases hint _ (by simpa [exec, execPorseq] using h) with h | h
    · exact .inr (.inr (.inl h))
    · exact .inr (.inr (.inr h))

/-- What a step answers. -/
theorem step_cases {s t : State} (h : step s = .next t) :
    (∃ op bl arg, s.reqReady = true ∧ op.toNat ≤ 4 ∧ t = resume (acceptRequest op bl arg s)) ∨
    (∃ op bl arg, s.reqReady = true ∧ t = respond .callerContractViolation (latchRequest op bl arg s)) ∨
    (∃ n, s.running = true ∧ t = runTo n s) ∨
    (∃ i rest, s.running = false ∧ s.inputs = i :: rest ∧ t = onInput i { s with inputs := rest }) ∨ t = s := by
  unfold step at h
  split at h
  · rcases exec_cases h with h | h | ⟨n, hi, h⟩ | h
    · exact .inl h
    · exact .inr (.inl h)
    · refine .inr (.inr (.inl ⟨n, ?_, h⟩))
      cases hr : s.running <;> simp_all [sequencerIssues]
    · exact .inr (.inr (.inr (.inr h)))
  · simp only [Host.Outcome.next.injEq] at h
    unfold idleStep at h
    split at h
    · exact .inr (.inr (.inl ⟨_, ‹_›, h.symm⟩))
    · unfold takeInput at h
      split at h
      · exact .inr (.inr (.inr (.inr h.symm)))
      · exact .inr (.inr (.inr (.inl ⟨_, _, by simp_all, ‹_›, h.symm⟩)))

/-- The packaged induction: what acceptance, rejection, one input, a zero sleep and the end of a micro-program
keep, every step keeps. -/
theorem step_induction (P : State → Prop)
    (hacc : ∀ op bl arg s, P s → s.reqReady = true → op.toNat ≤ 4 → P (acceptRequest op bl arg s))
    (hrej : ∀ op bl arg s, P s → s.reqReady = true →
      P (respond .callerContractViolation (latchRequest op bl arg s)))
    (hskip : ∀ s, P s → s.current = some (.sleep 0#16) → P (skipSleep s))
    (hfin : ∀ s, P s → s.atEnd = true → P (finish s))
    (hin : ∀ i rest s, P s → P (onInput i { s with inputs := rest }))
    {s t : State} (h : step s = .next t) (hs : P s) : P t := by
  rcases step_cases h with ⟨op, bl, arg, hr, hop, rfl⟩ | ⟨op, bl, arg, hr, rfl⟩ | ⟨n, _, rfl⟩ |
    ⟨i, rest, _, _, rfl⟩ | rfl
  · exact runInputs_induction P hskip hfin (fun i r u h _ _ => hin i r u h) _ _ _ (hacc op bl arg s hs hr hop)
  · exact hrej op bl arg s hs hr
  · exact runInputs_induction P hskip hfin (fun i r u h _ _ => hin i r u h) _ _ _ hs
  · exact hin i rest s hs
  · exact hs

/-- A step never faults and is never refused. -/
theorem step_next (s : State) : ∃ t, step s = .next t := by
  unfold step
  split
  · rename_i i _
    cases i <;> exact ⟨_, rfl⟩
  · exact ⟨_, rfl⟩

end Sys2Proof.Machine
end

