-- ==== Sys2Proof/Laws/Ops.lean ====
section
/-! SUPPORT. One lemma for each shared operation: everything it can answer. -/

namespace Sys2Proof.Machine

theorem running_cases {s : State} (h : s.running = true) : s.rst = false ∧ (s.ph = .busy ∨ s.ph = .por) := by
  simpa [State.running] using h

theorem atEnd_cases {s : State} (h : s.atEnd = true) :
    s.running = true ∧ s.program.length ≤ s.upc.toNat := by
  simpa [State.atEnd] using h

/-- The end of a micro-program, in each phase. -/
theorem finish_cases {s : State} (h : s.atEnd = true) :
    (s.ph = .busy ∧ finish s = respond .ok { s with ph := .idle, upc := 0#5 }) ∨
    (s.ph = .por ∧ finish s = { s with ph := .idle, upc := 0#5, nph := .high }) := by
  rcases (running_cases (atEnd_cases h).1).2 with hp | hp <;> simp [finish, hp]

/-- Raising the error, in each phase in which a write can be outstanding. -/
theorem raiseBusError_cases {s : State} (h : s.running = true) :
    (s.ph = .busy ∧ raiseBusError s = respond .busTransactionError { s with ph := .idle, upc := 0#5 }) ∨
    (s.ph = .por ∧ raiseBusError s = { s with ph := .fail, upc := 0#5 }) := by
  rcases (running_cases h).2 with hp | hp <;> simp [raiseBusError, hp]

/-- A failed write, in each phase, field by field. -/
theorem writeFailed_cases {s : State} {b : Byte} (h : s.current = some (.write b)) :
    (s.ph = .busy ∧ writeFailed b s =
      { s with ph := .idle, upc := 0#5, port := Config.freePort s.draws, nph := .unknown, draws := s.draws + 1,
               trace := s.trace ++ [.writeFailed s.addr b] ++ [.resp .busTransactionError] }) ∨
    (s.ph = .por ∧ writeFailed b s =
      { s with ph := .fail, upc := 0#5, port := Config.freePort s.draws, nph := .unknown, draws := s.draws + 1,
               trace := s.trace ++ [.writeFailed s.addr b] }) := by
  rcases (running_cases (current_some h).1).2 with hp | hp <;> simp [writeFailed, raiseBusError, respond, hp]

/-- One input: a reset edge, the end of the micro-operation at UPC, or a change of port levels only. -/
theorem onInput_cases (i : Input) (s : State) :
    (i = .rst true ∧ s.rst = false ∧ onInput i s = assertReset s) ∨
    (i = .rst false ∧ s.rst = true ∧ onInput i s = releaseReset s) ∨
    (∃ b, i = .bwDone false ∧ s.current = some (.write b) ∧ onInput i s = writeSucceeded b s) ∨
    (∃ b, i = .bwDone true ∧ s.current = some (.write b) ∧ onInput i s = writeFailed b s) ∨
    (∃ t, i = .tmDone ∧ t ≠ 0#16 ∧ s.current = some (.sleep t) ∧ onInput i s = sleepEnded t s) ∨
    (∃ a l v w, onInput i s = { s with addrI := a, linesI := l, reqValid := v, req := w }) := by
  have same : ∃ a l v w, s = { s with addrI := a, linesI := l, reqValid := v, req := w } := ⟨_, _, _, _, rfl⟩
  cases i with
  | rst level =>
    rcases Bool.eq_false_or_eq_true s.rst with h | h <;> cases level
    · exact .inr (.inl ⟨rfl, h, by simp [onInput, h]⟩)
    · rw [show onInput (.rst true) s = s by simp [onInput, h]]
      exact .inr (.inr (.inr (.inr (.inr same))))
    · rw [show onInput (.rst false) s = s by simp [onInput, h]]
      exact .inr (.inr (.inr (.inr (.inr same))))
    · exact .inl ⟨rfl, h, by simp [onInput, h]⟩
  | straps a l => exact .inr (.inr (.inr (.inr (.inr ⟨a, l, _, _, rfl⟩))))
  | offer w => exact .inr (.inr (.inr (.inr (.inr ⟨_, _, true, w, rfl⟩))))
  | withdraw => exact .inr (.inr (.inr (.inr (.inr ⟨_, _, false, _, rfl⟩))))
  | bwDone err =>
    rcases h : s.current with _ | ⟨b⟩ | ⟨t⟩
    · simp only [onInput, answerWrite, h]
      exact .inr (.inr (.inr (.inr (.inr same))))
    · cases err <;> simp [onInput, answerWrite, h]
    · simp only [onInput, answerWrite, h]
      exact .inr (.inr (.inr (.inr (.inr same))))
  | tmDone =>
    rcases h : s.current with _ | ⟨b⟩ | ⟨t⟩
    · simp only [onInput, endSleep, h]
      exact .inr (.inr (.inr (.inr (.inr same))))
    · simp only [onInput, endSleep, h]
      exact .inr (.inr (.inr (.inr (.inr same))))
    · by_cases ht : t = 0#16
      · simp only [onInput, endSleep, h, if_pos ht]
        exact .inr (.inr (.inr (.inr (.inr same))))
      · exact .inr (.inr (.inr (.inr (.inl ⟨t, rfl, ht, rfl, by simp only [onInput, endSleep, h, if_neg ht]⟩))))

/-- What reset adds to the trace: nothing, or the abandoned micro-operation. -/
theorem abandon_trace (s : State) :
    (∃ b, s.current = some (.write b) ∧ (abandon s).trace = s.trace ++ [.writeAbandoned s.addr b]) ∨
    (∃ t, s.current = some (.sleep t) ∧ (abandon s).trace = s.trace ++ [.sleepAbandoned t]) ∨
    (abandon s).trace = s.trace := by
  rcases h : s.current with _ | ⟨b⟩ | ⟨t⟩
  · simp [abandon, h]
  · simp [abandon, h]
  · by_cases ht : t = 0#16
    · exact .inr (.inr (by simp only [abandon, h, if_pos ht]))
    · exact .inr (.inl ⟨t, rfl, by simp only [abandon, h, if_neg ht]⟩)

/-- What one input adds to the trace: write events carry `ADDR` and the byte of the write at `UPC`, and a response
comes only with a failed write in PH_BUSY. -/
theorem onInput_trace (i : Input) (s : State) :
    ∃ es, (onInput i s).trace = s.trace ++ es ∧
      (∀ e ∈ es, (∀ a, e.device = some a → a = s.addr) ∧ (∀ b, e.byte = some b → s.current = some (.write b))) ∧
      ((∀ e ∈ es, e.isResponse = false) ∨
        (s.ph = .busy ∧ (onInput i s).ph = .idle ∧ (onInput i s).rst = s.rst ∧
          ∃ b, es = [.writeFailed s.addr b, .resp .busTransactionError])) := by
  rcases onInput_cases i s with ⟨_, _, h⟩ | ⟨_, _, h⟩ | ⟨b, _, hc, h⟩ | ⟨b, _, hc, h⟩ | ⟨t, _, _, hc, h⟩ | ⟨a, l, v, w, h⟩
  · rw [h]
    rcases abandon_trace s with ⟨b, hc, h'⟩ | ⟨t, hc, h'⟩ | h'
    · exact ⟨[.writeAbandoned s.addr b], by simpa using h', by simp [Event.device, Event.byte, hc],
        .inl (by simp [Event.isResponse])⟩
    · exact ⟨[.sleepAbandoned t], by simpa using h', by simp [Event.device, Event.byte],
        .inl (by simp [Event.isResponse])⟩
    · exact ⟨[], by simpa using h', by simp, .inl (by simp)⟩
  · exact ⟨[], by simp [h], by simp, .inl (by simp)⟩
  · exact ⟨[.write s.addr b], by simp [h], by simp [Event.device, Event.byte, hc], .inl (by simp [Event.isResponse])⟩
  · rw [h]
    rcases writeFailed_cases hc with ⟨hp, e⟩ | ⟨hp, e⟩
    · refine ⟨[.writeFailed s.addr b, .resp .busTransactionError], by simp [e], ?_, .inr ⟨hp, by simp [e], by simp, b, rfl⟩⟩
      simp [Event.device, Event.byte, hc]
    · exact ⟨[.writeFailed s.addr b], by simp [e], by simp [Event.device, Event.byte, hc],
        .inl (by simp [Event.isResponse])⟩
  · exact ⟨[.sleep t], by simp [h], by simp [Event.device, Event.byte], .inl (by simp [Event.isResponse])⟩
  · exact ⟨[], by simp [h], by simp, .inl (by simp)⟩

/-- What an input leaves alone: the configuration always, and while the engine runs also ADDR, LINESQ and the
latches, unless reset rises. -/
theorem onInput_frame (i : Input) (s : State) :
    (onInput i s).cfg = s.cfg ∧
    ((s.rst = false ∨ i ≠ .rst false) → (onInput i s).addr = s.addr ∧ (onInput i s).linesq = s.linesq) ∧
    ((onInput i s).rst = s.rst →
      (onInput i s).opq = s.opq ∧ (onInput i s).blq = s.blq ∧ (onInput i s).argq = s.argq) := by
  rcases onInput_cases i s with ⟨_, hr, h⟩ | ⟨hi, hr, h⟩ | ⟨b, _, hc, h⟩ | ⟨b, _, hc, h⟩ | ⟨t, _, _, hc, h⟩ | ⟨a, l, v, w, h⟩
  all_goals rw [h]
  · simp [hr]
  · simp [hr, hi]
  · simp
  · simp
  · simp
  · simp

/-! ## What a request answers when its inputs are at hand -/

/-- An accepted request whose micro-program meets no failure (R85). -/
theorem runRequest_completes {op : BitVec 3} {bl : Bit} {arg : Arg} {s : State} {rest : List Input}
    (hr : s.reqReady = true) (hi : s.inputs = answersOf (requestProgram s.cfg op bl arg) ++ rest) :
    let ws := writesOf (requestProgram s.cfg op bl arg)
    runRequest op bl arg s =
      respond .ok { s with opq := op, blq := bl, argq := arg, reqValid := false, ph := .idle, upc := 0, inputs := rest,
                           port := portAfter s.port ws, nph := s.nph.afterWrites s.port ws,
                           trace := s.trace ++ eventsOf s.addr (requestProgram s.cfg op bl arg) } := by
  have hrst : s.rst = false := by
    simp [State.reqReady] at hr
    exact hr.1
  simp only
  rw [runRequest, if_pos hr, resume, runTo, runInputs_completes (requestProgram s.cfg op bl arg) rest]
  · rw [performOps_eq]
    simp [finish, acceptRequest, latchRequest, respond]
  · simp [State.running, acceptRequest, latchRequest, hrst]
  · rfl
  · simp
  · exact hi

/-- An accepted request whose write after `pre` fails (R172). -/
theorem runRequest_fails {op : BitVec 3} {bl : Bit} {arg : Arg} {s : State} {pre post : List MicroOp} {b : Byte}
    {rest : List Input} (hr : s.reqReady = true) (hp : requestProgram s.cfg op bl arg = pre ++ .write b :: post)
    (hi : s.inputs = answersOf pre ++ .bwDone true :: rest) :
    runRequest op bl arg s =
      { s with opq := op, blq := bl, argq := arg, reqValid := false, ph := .idle, upc := 0, inputs := rest,
               port := Config.freePort s.draws, nph := .unknown, draws := s.draws + 1,
               trace := s.trace ++ eventsOf s.addr pre ++ [.writeFailed s.addr b, .resp .busTransactionError] } := by
  have hrst : s.rst = false := by
    simp [State.reqReady] at hr
    exact hr.1
  rw [runRequest, if_pos hr, resume, runTo, runInputs_fails pre post b _ rest]
  · rw [performOps_eq]
    simp [writeFailed, raiseBusError, acceptRequest, latchRequest, respond]
  · simp [State.running, acceptRequest, latchRequest, hrst]
  · exact hp
  · rw [show (acceptRequest op bl arg s).program = pre ++ .write b :: post from hp]
    simp
  · exact hi

/-! ## Lists of micro-operations put together -/

theorem eventsOf_append (addr : DevAddr) (xs ys : List MicroOp) :
    eventsOf addr (xs ++ ys) = eventsOf addr xs ++ eventsOf addr ys := by
  induction xs with
  | nil => rfl
  | cons x xs ih =>
    cases x <;> simp [eventsOf, ih]
    split <;> simp

theorem writesOf_append (xs ys : List MicroOp) : writesOf (xs ++ ys) = writesOf xs ++ writesOf ys := by
  induction xs with
  | nil => rfl
  | cons x xs ih => cases x <;> simp [writesOf, ih]

theorem portAfter_append (p : Byte) (xs ys : List Byte) : portAfter p (xs ++ ys) = portAfter (portAfter p xs) ys := by
  induction xs generalizing p with
  | nil => rfl
  | cons x xs ih => simp [portAfter, ih]

theorem afterWrites_append (q : NibblePhase) (p : Byte) (xs ys : List Byte) :
    q.afterWrites p (xs ++ ys) = (q.afterWrites p xs).afterWrites (portAfter p xs) ys := by
  induction xs generalizing p q with
  | nil => rfl
  | cons x xs ih => simp [portAfter, NibblePhase.afterWrites, ih]

/-! ## The bytes of a strobe pair (R101, R102) -/

@[simp] theorem enableBit_pack_set (n : Nibble) (rs bl : Bit) : enableBit (pack n rs bl 1#1) = true := by
  revert n rs bl; decide

@[simp] theorem enableBit_pack_clear (n : Nibble) (rs bl : Bit) : enableBit (pack n rs bl 0#1) = false := by
  revert n rs bl; decide

@[simp] theorem pack_bit1 (n : Nibble) (rs bl e : Bit) : (pack n rs bl e).getLsbD RW_BIT = false := by
  revert n rs bl e; decide

/-- The falling edge of a strobe pair latches its nibble. -/
@[simp] theorem latchAt_strobe (n : Nibble) (rs bl : Bit) :
    latchAt (pack n rs bl 1#1) (pack n rs bl 0#1) = .nibble rs n := by
  revert n rs bl; decide

/-- Without the enable line high before, nothing is latched. -/
theorem latchAt_low {p : Byte} (h : enableBit p = false) (b : Byte) : latchAt p b = .nothing := by
  simp [latchAt, h]

/-- A byte with the enable line high latches nothing. -/
@[simp] theorem latchAt_set (p : Byte) (n : Nibble) (rs bl : Bit) : latchAt p (pack n rs bl 1#1) = .nothing := by
  simp [latchAt]

/-! ## Decode and encode -/

/-- A request word put together from its fields, taken apart again. -/
theorem requestWord_fields (op : BitVec 3) (bl : Bit) (arg : Arg) :
    Request.op (requestWord op bl arg) = op ∧ Request.bl (requestWord op bl arg) = bl ∧
    Request.arg (requestWord op bl arg) = arg := by
  refine ⟨?_, ?_, ?_⟩ <;>
    simp only [Request.op, Request.bl, Request.arg, requestWord] <;>
    ext j hj <;>
    simp [BitVec.getElem_extractLsb'] <;>
    grind

end Sys2Proof.Machine
end

