-- ==== Sys2Proof/Laws/PerInstr.lean ====
section
/-! SUPPORT. Statements made operation by operation: the operation code that stands in `req[19:17]` of an encoded
request (30_encoding.md R71, R78). -/

/-- Every word the encoder gives an operation carries that operation's code; WRINIT and PORSEQ have no word (R77). -/
def Sys2Proof.Laws.OpField.Statement (i : Sys2Proof.Instr) : Prop :=
  ∀ w, Sys2Proof.encode i = some w → (Sys2Proof.Request.op w).toNat =
    match i with
    | .wrcmd .. => 0
    | .wrdata .. => 1
    | .blon .. => 2
    | .bloff .. => 3
    | .delay .. => 4
    | .rsvd5 .. => 5
    | .rsvd6 .. => 6
    | .rsvd7 .. => 7
    | .wrinit _ => 8
    | .porseq _ => 8

namespace Sys2Proof.Laws.OpField

/-- The code of a word put together by `requestWord`. -/
theorem of_requestWord {op : BitVec 3} {bl : Bit} {arg : Arg} {w : Request}
    (h : some (requestWord op bl arg) = some w) : (Request.op w).toNat = op.toNat := by
  rw [← Option.some.inj h, (Sys2Proof.Machine.requestWord_fields op bl arg).1]

theorem wrcmd (bl : Bit) (ign c : Byte) : Statement (.wrcmd bl ign c) := fun _ h => of_requestWord h
theorem wrdata (bl : Bit) (ign d : Byte) : Statement (.wrdata bl ign d) := fun _ h => of_requestWord h
theorem blon (bl : Bit) (arg : Arg) : Statement (.blon bl arg) := fun _ h => of_requestWord h
theorem bloff (bl : Bit) (arg : Arg) : Statement (.bloff bl arg) := fun _ h => of_requestWord h
theorem delay (bl : Bit) (t : Arg) : Statement (.delay bl t) := fun _ h => of_requestWord h
theorem rsvd5 (bl : Bit) (arg : Arg) : Statement (.rsvd5 bl arg) := fun _ h => of_requestWord h
theorem rsvd6 (bl : Bit) (arg : Arg) : Statement (.rsvd6 bl arg) := fun _ h => of_requestWord h
theorem rsvd7 (bl : Bit) (arg : Arg) : Statement (.rsvd7 bl arg) := fun _ h => of_requestWord h
theorem wrinit (n : Nibble) : Statement (.wrinit n) := fun _ h => nomatch h
theorem porseq (lines : BitVec 3) : Statement (.porseq lines) := fun _ h => nomatch h

end Sys2Proof.Laws.OpField
end

