-- ==== Sys2Proof/Tests/Slice0.lean ====
section
/-! SUPPORT. Tests: ill-formed terms refused, words written out from the encodings, one step of each operation on a
small state (expected events from spec/95_test_vectors.md), and for every obligation with hypotheses a concrete
state and operands that meet them. -/

namespace Sys2Proof.Machine.Tests

/-! ## Small states -/

/-- PH_IDLE after a default PORSEQ with two lines, with these inputs to come. -/
def idleWith (ins : List Input) : State where
  cfg := Config.default
  opq := 0
  blq := 0
  argq := 0
  upc := 0
  ph := .idle
  addr := 0x27
  linesq := 2
  rst := false
  addrI := 0x27
  linesI := 2
  reqValid := false
  req := 0
  port := 0x88
  nph := .high
  inputs := ins
  trace := []
  draws := 0

/-- PH_POR at this UPC. -/
def porWith (u : BitVec 5) (ins : List Input) : State :=
  { idleWith ins with ph := .por, upc := u, nph := .unknown }

/-- PH_BUSY with `BLON`, its write outstanding. -/
def busyWith (ins : List Input) : State := { idleWith ins with ph := .busy, opq := 2 }

/-- PH_BUSY with `DELAY 40`, its sleep outstanding. -/
def sleepingWith (ins : List Input) : State := { idleWith ins with ph := .busy, opq := 4, argq := 40 }

/-- PH_FAIL. -/
def failedWith (ins : List Input) : State := { idleWith ins with ph := .fail, nph := .unknown }

/-- Reset asserted, with this line count on the strap. -/
def inResetWith (lines : BitVec 3) (ins : List Input) : State := { porWith 0 ins with rst := true, linesI := lines }

/-- `n` writes answered `success`. -/
def acks (n : Nat) : List Input := List.replicate n (.bwDone false)

/-- The events of an outcome. -/
def events : Host.Outcome State Fault Refusal → List Event
  | .next s => s.trace
  | .fault r => nomatch r
  | .refused _ => []

/-- These bytes, written successfully to device 0x27. -/
def wrote (bs : List Byte) : List Event := bs.map (.write 0x27)

/-! ## Well-formedness: what the check refuses -/

theorem test_porseq_zero_lines_ill_formed : (Instr.porseq 0).wellFormed = false := by decide
theorem test_porseq_five_lines_ill_formed : (Instr.porseq 5).wellFormed = false := by decide
theorem test_porseq_four_lines_well_formed : (Instr.porseq 4).wellFormed = true := by decide
theorem test_delay_with_bl_not_canonical : (Instr.delay 1 40).canonical = false := by decide

/-! ## Decoding: words written out from 30_encoding.md R70 to R72 (op, bl, arg), 95 sections 3 to 5 -/

theorem test_decode_wrcmd : decodeTableWord 20 0b00010000000000101000 = some (.wrcmd 1 0 0x28) := by decide
theorem test_decode_wrcmd_ignored : decodeTableWord 20 0b00011111111100000001 = some (.wrcmd 1 0xFF 0x01) := by decide
theorem test_decode_wrdata : decodeTableWord 20 0b00110000000001000001 = some (.wrdata 1 0 0x41) := by decide
theorem test_decode_blon : decodeTableWord 20 0b01011111111111111111 = some (.blon 1 0xFFFF) := by decide
theorem test_decode_bloff : decodeTableWord 20 0b01100000000000000000 = some (.bloff 0 0) := by decide
theorem test_decode_delay : decodeTableWord 20 0b10000001001110001000 = some (.delay 0 5000) := by decide
theorem test_decode_rsvd5 : decodeTableWord 20 0b10111111111111111111 = some (.rsvd5 1 0xFFFF) := by decide
theorem test_decode_rsvd6 : decodeTableWord 20 0b11000000000000000000 = some (.rsvd6 0 0) := by decide
theorem test_decode_rsvd7 : decodeTableWord 20 0b11111111111111111111 = some (.rsvd7 1 0xFFFF) := by decide
theorem test_decode_wrinit : decodeTableWord 4 0b0011 = some (.wrinit 0x3) := by decide
theorem test_decode_porseq : decodeTableWord 3 0b010 = some (.porseq 2) := by decide

theorem test_reject_21_bits : decodeWord 24 0x100000 = .error .notARequestWord := by rfl
theorem test_reject_nibble_16 : decodeWord 8 16 = .error .notANibble := by rfl
theorem test_reject_no_lines : decodeWord 3 0 = .error .notALineCount := by rfl
theorem test_reject_width : decodeWord 7 0 = .error .noSuchWidth := by rfl

/-- `DELAY 40` has the canonical word 0x80028 (R82, 95 section 5). -/
theorem test_encode_delay : encode (.delay 0 40) = some 0x80028 := by decide
/-- `WRDATA 0x41, 1` has the word 0x30041 (95 section 4). -/
theorem test_encode_wrdata : encode (.wrdata 1 0 0x41) = some 0x30041 := by decide

/-! ## PACK, 95 section 2 -/

theorem test_pack_values : pack 0x3 1 1 1 = 0x3D ∧ pack 0x5 0 1 1 = 0x5C ∧ pack 0xA 1 1 0 = 0xA9 ∧ pack 0x5 1 0 0 = 0x51 := by
  decide

/-! ## One operation at a time, 95 sections 3 to 7 -/

theorem test_wrcmd_clear_sleeps : events (exec (.wrcmd 1 0xFF 0x01) (idleWith (acks 4 ++ [.tmDone]))) =
    wrote [0x0C, 0x08, 0x1C, 0x18] ++ [.sleep 5000, .resp .ok] := by decide
theorem test_wrcmd_83_does_not_sleep : events (exec (.wrcmd 0 0 0x83) (idleWith (acks 4))) =
    wrote [0x84, 0x80, 0x34, 0x30] ++ [.resp .ok] := by decide
theorem test_wrdata_letter : events (exec (.wrdata 1 0 0x41) (idleWith (acks 4))) =
    wrote [0x4D, 0x49, 0x1D, 0x19] ++ [.resp .ok] := by decide
theorem test_wrdata_third_write_fails : events (exec (.wrdata 1 0 0x41) (idleWith (acks 2 ++ [.bwDone true, .tmDone]))) =
    wrote [0x4D, 0x49] ++ [.writeFailed 0x27 0x1D, .resp .busTransactionError] := by decide
theorem test_blon_ignores_its_operands : events (exec (.blon 0 0xFFFF) (idleWith (acks 1))) =
    wrote [0x08] ++ [.resp .ok] := by decide
theorem test_blon_fails : events (exec (.blon 0 0) (idleWith [.bwDone true])) =
    [.writeFailed 0x27 0x08, .resp .busTransactionError] := by decide
theorem test_bloff_with_bl_writes_zero : events (exec (.bloff 1 0xFFFF) (idleWith (acks 1))) =
    wrote [0x00] ++ [.resp .ok] := by decide
theorem test_delay_40 : events (exec (.delay 1 40) (idleWith [.bwDone true, .tmDone])) = [.sleep 40, .resp .ok] := by
  decide
theorem test_delay_0 : events (exec (.delay 0 0) (idleWith [])) = [.resp .ok] := by decide
theorem test_rsvd5_answers_2 : events (exec (.rsvd5 0 0) (idleWith (acks 1))) = [.resp .callerContractViolation] := by
  decide
theorem test_rsvd6_answers_2 : events (exec (.rsvd6 0 0) (idleWith [])) = [.resp .callerContractViolation] := by decide
theorem test_rsvd7_answers_2 : events (exec (.rsvd7 1 0xFFFF) (idleWith [])) = [.resp .callerContractViolation] := by
  decide
theorem test_wrinit_reset_nibble : events (exec (.wrinit 0x3) (porWith 1 (acks 2))) = wrote [0x34, 0x30] := by decide
theorem test_wrinit_mode_nibble_fails : events (exec (.wrinit 0x2) (porWith 10 (acks 1 ++ [.bwDone true]))) =
    wrote [0x24] ++ [.writeFailed 0x27 0x20] := by decide
/-- 95 section 7, two lines. -/
theorem test_porseq_two_lines :
    events (exec (.porseq 2)
      (porWith 0 (acks 2 ++ .tmDone :: acks 2 ++ .tmDone :: acks 2 ++ .tmDone :: acks 6))) =
    wrote [0x34, 0x30] ++ [.sleep 5000] ++ wrote [0x34, 0x30] ++ [.sleep 1000] ++ wrote [0x34, 0x30] ++ [.sleep 1000] ++
      wrote [0x24, 0x20, 0x2C, 0x28, 0x8C, 0x88] := by decide
/-- 95 section 7, failure at write 3. -/
theorem test_porseq_third_write_fails :
    events (exec (.porseq 2) (porWith 0 (acks 2 ++ [.tmDone, .bwDone true, .bwDone false]))) =
    wrote [0x34, 0x30] ++ [.sleep 5000, .writeFailed 0x27 0x34] := by decide

/-! ## Words placed with withFetchWord, from State.reset -/

/-- The first step after reset runs the placed request, to its response when the answer is at hand. -/
theorem test_blon_runs_first : events (step ({ State.reset with inputs := acks 1 }.withFetchWord 20 0x40000)) =
    [.write Config.busAddr 0x08, .resp .ok] := by rfl
theorem test_rsvd7_runs_first : events (step (State.reset.withFetchWord 20 0xE0000)) =
    [.resp .callerContractViolation] := by rfl
theorem test_wrinit_runs_first : events (step ({ State.reset with inputs := acks 2 }.withFetchWord 4 0x2)) =
    [.write Config.busAddr 0x24, .write Config.busAddr 0x20] := by rfl
/-- Without an answer the operation waits with its first byte at the port. -/
theorem test_wrdata_waits : (match step (State.reset.withFetchWord 20 0x30041) with
    | .next s => s.bwOut
    | .fault r => nomatch r
    | .refused _ => none) = some (Config.busAddr, 0x4D) := by rfl

/-! ## Witnesses: the hypotheses of the obligations can be met -/

theorem witness_requestable : (Instr.blon 0 0).requestable = true ∧ (Instr.porseq 1).requestable = false := by decide

theorem witness_pack_equal : pack 0xF 1 1 1 = pack 0xF 1 1 1 := by decide

/-- WRCMD at 3, the last value that sleeps, and at 4, the first that does not. -/
theorem witness_wrcmd_success (c : Byte) (h : c = 3 ∨ c = 4) :
    ∃ s : State, s.reqReady = true ∧ 2000 ≤ s.cfg.tSettle.toNat ∧
      s.inputs = List.replicate 4 (.bwDone false) ++ (if c.toNat ≤ 3 then [.tmDone] else []) ++ [] := by
  rcases h with rfl | rfl
  · exact ⟨idleWith (acks 4 ++ [.tmDone]), by decide⟩
  · exact ⟨idleWith (acks 4), by decide⟩

/-- WRCMD and WRDATA, failing at the first and at the last write. -/
theorem witness_transfer_failure (k : Nat) (h : k = 0 ∨ k = 3) :
    ∃ (s : State) (b : Byte), s.reqReady = true ∧ 2000 ≤ s.cfg.tSettle.toNat ∧
      [pack 2 0 1 1, pack 2 0 1 0, pack 8 0 1 1, pack 8 0 1 0][k]? = some b ∧
      s.inputs = List.replicate k (.bwDone false) ++ .bwDone true :: [] := by
  rcases h with rfl | rfl
  · exact ⟨idleWith [.bwDone true], 0x2C, by decide⟩
  · exact ⟨idleWith (acks 3 ++ [.bwDone true]), 0x88, by decide⟩

theorem witness_wrdata_success : (idleWith (acks 4)).reqReady = true ∧
    (idleWith (acks 4)).inputs = List.replicate 4 (.bwDone false) ++ [] := by decide

theorem witness_wrdata_failure (k : Nat) (h : k = 0 ∨ k = 3) :
    ∃ (s : State) (b : Byte), s.reqReady = true ∧
      [pack 4 1 1 1, pack 4 1 1 0, pack 1 1 1 1, pack 1 1 1 0][k]? = some b ∧
      s.inputs = List.replicate k (.bwDone false) ++ .bwDone true :: [] := by
  rcases h with rfl | rfl
  · exact ⟨idleWith [.bwDone true], 0x4D, by decide⟩
  · exact ⟨idleWith (acks 3 ++ [.bwDone true]), 0x19, by decide⟩

/-- BLON and BLOFF, answered `success` and answered `busError`. -/
theorem witness_backlight (err : Bool) : (idleWith [.bwDone err]).reqReady = true ∧
    (idleWith [.bwDone err]).inputs = .bwDone err :: [] := by cases err <;> decide

/-- DELAY 1 with a stray bus answer, DELAY 65535, DELAY 0. -/
theorem witness_delay : (idleWith [.bwDone true, .tmDone]).reqReady = true ∧ (1 : Arg) ≠ 0 ∧ (0xFFFF : Arg) ≠ 0 ∧
    (idleWith [.bwDone true, .tmDone]).inputs = [true].map .bwDone ++ .tmDone :: [] ∧ (0 : Arg) = 0 := by decide

theorem witness_ready : (idleWith []).reqReady = true ∧ (idleWith []).inputs = [] ∧
    (Instr.rsvd7 0 0).requestable = true := by decide

/-- WRINIT at each UPC where it is issued, and each of its three answers. -/
theorem witness_wrinit (u : BitVec 5) (n : Nibble) (ins : List Input)
    (h : (u = 1 ∨ u = 4 ∨ u = 7) ∧ n = 0x3 ∨ u = 10 ∧ n = 0x2)
    (_ : ins = [.bwDone false, .bwDone false] ∨ ins = [.bwDone true] ∨ ins = [.bwDone false, .bwDone true]) :
    let s := porWith u ins
    s.rst = false ∧ s.ph = .por ∧
      ((s.upc = 1 ∨ s.upc = 4 ∨ s.upc = 7) ∧ n = 0x3 ∨ s.upc = 10 ∧ n = s.cfg.nib4bit) ∧ s.inputs = ins :=
  ⟨rfl, rfl, h, rfl⟩

/-- PORSEQ with every legal line count, all answers at hand. -/
theorem witness_porseq (lines : BitVec 3) (f : Byte)
    (h : lines = 1 ∧ f = 0x20 ∨ lines = 2 ∧ f = 0x28 ∨ lines = 3 ∧ f = 0x28 ∨ lines = 4 ∧ f = 0x28) :
    ∃ s : State, s.rst = false ∧ s.ph = .por ∧ s.upc = 0 ∧ s.linesq = lines ∧ s.cfg.Valid ∧
      (lines = 1 ∧ f = s.cfg.fs1 ∨ lines = 2 ∧ f = s.cfg.fs2 ∨ lines = 3 ∧ f = s.cfg.fs3 ∨ lines = 4 ∧ f = s.cfg.fs4) ∧
      s.inputs = answersOf (progPorseq s.cfg lines) ++ [] :=
  ⟨{ porWith 0 (answersOf (progPorseq Config.default lines) ++ []) with linesq := lines },
    rfl, rfl, rfl, rfl, show Config.default.Valid by decide, h, rfl⟩

/-- PORSEQ failing at its first write (micro-operation 1) and at its last (16). -/
theorem witness_porseq_failure (k : Nat) (h : k = 1 ∨ k = 16) :
    ∃ (s : State) (b : Byte), s.rst = false ∧ s.ph = .por ∧ s.upc = 0 ∧ s.linesq = 2 ∧ s.cfg.Valid ∧
      (progPorseq s.cfg 2)[k]? = some (.write b) ∧
      s.inputs = answersOf ((progPorseq s.cfg 2).take k) ++ .bwDone true :: [] := by
  rcases h with rfl | rfl
  · exact ⟨porWith 0 [.bwDone true], 0x34, by decide⟩
  · exact ⟨porWith 0 (answersOf ((progPorseq Config.default 2).take 16) ++ .bwDone true :: []), 0x88, by decide⟩

/-- An accepted request that is suspended, one that ends, one that a failure ends, one that reset cuts. -/
theorem witness_request_runs :
    (∃ t, exec (decodeRequest 0x40000) (idleWith []) = .next t ∧ t.ph = .busy) ∧
    (∃ t, exec (decodeRequest 0x40000) (idleWith (acks 1)) = .next t ∧ t.ph = .idle) ∧
    (∃ t, exec (decodeRequest 0x40000) (idleWith [.bwDone true]) = .next t ∧ .writeFailed 0x27 0x08 ∈ t.trace) ∧
    (∃ t, exec (decodeRequest 0x40000) (idleWith [.rst true]) = .next t ∧ t.rst = true) :=
  ⟨⟨_, rfl, rfl⟩, ⟨_, rfl, rfl⟩, ⟨_, rfl, by decide⟩, ⟨_, rfl, rfl⟩⟩

theorem witness_request_waits : (busyWith []).reqReady = false ∧ (Instr.blon 0 0).requestable = true ∧
    exec (decodeRequest 0x40000) (busyWith []) = .next (busyWith []) := ⟨by decide, by decide, rfl⟩

/-- A request accepted with an offer, a strap change and a stray answer between its answers. -/
theorem witness_request_with_other_inputs :
    let s := idleWith [.offer 0x60000, .bwDone false, .straps 0 1, .tmDone, .bwDone false]
    s.reqReady = true ∧ ∃ t, exec (decodeRequest 0x10028) s = .next t ∧ t.ph = .busy ∧
      t.trace = wrote [0x2C, 0x28] := ⟨by decide, _, rfl, rfl, by decide⟩

/-- No offer among the inputs, all answers at hand. -/
theorem witness_no_other_offer : (Instr.blon 0 0).requestable = true ∧ (idleWith (acks 1)).reqReady = true ∧
    (∀ w, .offer w ∉ (idleWith (acks 1)).inputs) := ⟨by decide, by decide, by simp [idleWith, acks]⟩

/-- Each operation of the sequencer, where it is issued. -/
theorem witness_sequencer :
    (∃ t, exec (.porseq 2) (porWith 0 [.bwDone false]) = .next t) ∧ (porWith 0 []).upc = 0 ∧ (porWith 0 []).linesq = 2 ∧
    (∃ t, exec (.wrinit 0x3) (porWith 7 []) = .next t) ∧ (porWith 7 []).upc = 7 ∧
    (∃ t, exec (.wrinit 0x2) (porWith 10 [.rst true]) = .next t) ∧ (porWith 10 []).upc = 10 ∧
    (porWith 10 []).cfg.nib4bit = 0x2 ∧ (porWith 10 []).rst = false ∧ (porWith 10 []).ph = .por :=
  ⟨⟨_, rfl⟩, rfl, rfl, ⟨_, rfl⟩, rfl, ⟨_, rfl⟩, rfl, rfl, rfl, rfl⟩

/-- PORSEQ left unfinished at UPC 2, and a WRINIT step at UPC 1 that leaves it at UPC 3. -/
theorem witness_porseq_suspended :
    (∃ t, step (porWith 0 (acks 1)) = .next t ∧ t.rst = false ∧ t.ph = .por ∧ t.upc = 2) ∧
    (∃ t, step (porWith 1 (acks 2)) = .next t ∧ t.rst = false ∧ t.ph = .por ∧ t.upc = 3) :=
  ⟨⟨_, rfl, rfl, rfl, rfl⟩, ⟨_, rfl, rfl, rfl, rfl⟩⟩

theorem witness_porseq_completes : ∃ t,
    exec (.porseq 2) (porWith 0 (acks 2 ++ .tmDone :: acks 2 ++ .tmDone :: acks 2 ++ .tmDone :: acks 6)) = .next t ∧
      t.ph = .idle := ⟨_, rfl, rfl⟩

theorem witness_latch_view : enableBit 0x88 = false ∧ enableBit 0x00 = false ∧ Config.default.Valid := by decide

/-- A request's write and PORSEQ's write outstanding. -/
theorem witness_write_outstanding : (busyWith []).bwOut = some ((busyWith []).addr, 0x08) ∧ (busyWith []).ph = .busy ∧
    (porWith 1 []).bwOut = some ((porWith 1 []).addr, 0x34) ∧ (porWith 1 []).ph = .por := by decide

theorem witness_failed_block : (failedWith [.offer 0]).ph = .fail ∧ (failedWith [.offer 0]).rst = false ∧
    (failedWith [.offer 0]).inputs.head? ≠ some (.rst true) ∧ (∃ t, step (failedWith [.offer 0]) = .next t) ∧
    (failedWith []).inputs.head? ≠ some (.rst true) ∧ (∃ t, step (failedWith []) = .next t) :=
  ⟨by decide, by decide, by decide, ⟨_, rfl⟩, by decide, ⟨_, rfl⟩⟩

theorem witness_unanswered : (busyWith [.tmDone, .offer 0]).bwOut = some ((busyWith [.tmDone, .offer 0]).addr, 0x08) ∧
    (∀ i ∈ (busyWith [.tmDone, .offer 0]).inputs, i ≠ .bwDone true ∧ i ≠ .bwDone false ∧ i ≠ .rst true) ∧
    (∃ t, step (busyWith [.tmDone, .offer 0]) = .next t) ∧ (∃ t, step (busyWith []) = .next t) ∧
    (busyWith []).inputs = [] := ⟨by decide, by decide, ⟨_, rfl⟩, ⟨_, rfl⟩, rfl⟩

/-- Each channel in use and at rest. -/
theorem witness_channels : (busyWith []).bwOut ≠ none ∧ (busyWith []).tmOut = none ∧ (sleepingWith []).tmOut ≠ none ∧
    (sleepingWith []).bwOut = none ∧ Input.tmDone ≠ .bwDone true ∧ Input.bwDone true ≠ .tmDone := by decide

/-- Reset rises in any phase; it falls with every strap value at a boundary of the clamp. -/
theorem witness_reset : (idleWith []).rst = false ∧ (failedWith []).rst = false ∧ (inResetWith 0 []).rst = true ∧
    (inResetWith 1 []).rst = true ∧ (inResetWith 4 []).rst = true ∧ (inResetWith 5 []).rst = true ∧
    (inResetWith 7 []).rst = true := by decide

/-- A step from each phase, reset rising, falling or neither. -/
theorem witness_phase_steps :
    (∃ t, step (inResetWith 2 [.rst false]) = .next t ∧ t.rst = false) ∧
    (∃ t, step (busyWith [.rst true]) = .next t ∧ t.rst = true) ∧ (∃ t, step (failedWith []) = .next t ∧ t.rst = false) ∧
    (∃ t, step (porWith 1 [.bwDone true]) = .next t ∧ t.rst = false ∧ t.ph = .fail) ∧
    (∃ t, step (busyWith (acks 1)) = .next t ∧ t.rst = false ∧ t.ph = .idle) ∧
    (∃ t, step { idleWith [] with reqValid := true, req := 0x80000 } = .next t ∧ t.rst = false ∧ t.ph = .idle) ∧
    (∃ t, step { idleWith [] with reqValid := true, req := 0xE0000 } = .next t ∧ t.rst = false) :=
  ⟨⟨_, rfl, rfl⟩, ⟨_, rfl, rfl⟩, ⟨_, rfl, rfl⟩, ⟨_, rfl, rfl, rfl⟩, ⟨_, rfl, rfl, rfl⟩, ⟨_, rfl, rfl, rfl⟩, ⟨_, rfl, rfl⟩⟩

/-- One state for each clause of StepRunsTheOperationAtHand. -/
theorem witness_step :
    ({ idleWith [] with reqValid := true }.reqReady = true ∧ ({ idleWith [] with reqValid := true } : State).reqValid = true) ∧
    ((porWith 0 []).rst = false ∧ (porWith 0 []).ph = .por ∧ (porWith 0 []).upc = 0) ∧
    ((porWith 1 []).upc = 1 ∧ (porWith 7 []).upc = 7 ∧ (porWith 10 []).upc = 10) ∧
    ((porWith 3 []).upc ≠ 0 ∧ (porWith 3 []).upc ≠ 1 ∧ (porWith 3 []).upc ≠ 4 ∧ (porWith 3 []).upc ≠ 7 ∧
      (porWith 3 []).upc ≠ 10) ∧
    ((busyWith []).rst = false ∧ (busyWith []).ph = .busy) ∧
    ((inResetWith 2 []).rst = true ∧ (failedWith [.tmDone]).ph = .fail ∧ (failedWith [.tmDone]).inputs = .tmDone :: [] ∧
      (idleWith []).ph = .idle ∧ (idleWith []).reqValid = false ∧ (idleWith []).inputs = []) := by decide

/-- A step with reset not asserted, and one that takes an input other than the fall of reset while it is. -/
theorem witness_configuration : (idleWith [.straps 0x3F 1]).rst = false ∧ (inResetWith 2 [.straps 0x3F 1]).rst = true ∧
    (inResetWith 2 [.straps 0x3F 1]).inputs.head? ≠ some (.rst false) ∧
    (∃ t, step (inResetWith 2 [.straps 0x3F 1]) = .next t) := ⟨by decide, by decide, by decide, ⟨_, rfl⟩⟩

/-- A step that writes, with the event the statement is about. -/
theorem witness_write_event : ∃ t, step { idleWith (acks 1) with reqValid := true, req := 0x40000 } = .next t ∧
    .write 0x27 0x08 ∈ t.trace ∧ (Event.write 0x27 0x08).device = some 0x27 ∧ (Event.write 0x27 0x08).byte = some 0x08 :=
  ⟨_, rfl, by decide⟩

theorem witness_transfer_bytes : (∃ t, exec (.wrcmd 1 0 0x28) (idleWith (acks 4)) = .next t ∧ .write 0x27 0x2C ∈ t.trace) ∧
    (∃ t, exec (.wrdata 1 0 0x41) (idleWith (acks 4)) = .next t ∧ .write 0x27 0x4D ∈ t.trace) :=
  ⟨⟨_, rfl, by decide⟩, ⟨_, rfl, by decide⟩⟩

theorem witness_non_storing : ∃ t, exec (.delay 0 40) (idleWith [.tmDone]) = .next t ∧ t.rst = (idleWith [.tmDone]).rst :=
  ⟨_, rfl, rfl⟩

/-- The invariants hold together in states of every phase from which a step goes. -/
theorem witness_invariants :
    ∃ s : State, s.ph = .busy ∧ ControlInv s ∧ FarSideInv s ∧ RwLow s ∧ ∃ t, step s = .next t :=
  ⟨busyWith (acks 1), rfl, ⟨by decide, by decide, by decide, by decide, by decide, by decide⟩,
    .inr ⟨0x88, by decide⟩, by simp [RwLow, busyWith, idleWith], ⟨_, rfl⟩⟩

theorem witness_invariants_in_por :
    ∃ s : State, s.ph = .por ∧ ControlInv s ∧ FarSideInv s ∧ RwLow s ∧ ∃ t, step s = .next t :=
  ⟨porWith 0 (acks 1), rfl, ⟨by decide, by decide, by decide, by decide, by decide, by decide⟩,
    ⟨rfl, 0x88, rfl⟩, by simp [RwLow, porWith, idleWith], ⟨_, rfl⟩⟩

theorem witness_table_word : decodeTableWord 3 4 = some (.porseq 4) ∧ decodeTableWord 8 15 = some (.wrinit 0xF) ∧
    decodeTableWord 24 0xFFFFF = some (.rsvd7 1 0xFFFF) := by decide

end Sys2Proof.Machine.Tests
end

section
/-! PROOF. The state of the block (10_state.md): its value at the release of reset, its status outputs, and the two
invariants of R41 that speak of single moves: the control state (items a and d) and the far side (item c). -/

namespace Sys2Proof.Machine

/-! ## Reset and status outputs -/

/-- The clamp gives a legal line count (R30). -/
theorem legalLines_clampLines (l : BitVec 3) : legalLines (clampLines l) = true := by
  revert l; decide

theorem progPorseq_length_pos (c : Config) (l : BitVec 3) : 0 < (progPorseq c l).length := by
  simp [progPorseq]

/-- The three phases in which the engine is not at work, and reset. -/
theorem not_running_of_ph {s : State} (h : s.ph = .idle ∨ s.ph = .fail) : s.running = false := by
  rcases h with h | h <;> simp [State.running, h]

theorem not_running_of_rst {s : State} (h : s.rst = true) : s.running = false := by
  simp [State.running, h]

theorem reqReady_iff (s : State) : s.reqReady = true ↔ s.rst = false ∧ s.ph = .idle := by
  simp [State.reqReady]

/-- At the release of reset PORSEQ owes its first micro-operation. -/
theorem releaseReset_atEnd (s : State) : (releaseReset s).atEnd = false := by
  have hpos : 0 < (releaseReset s).program.length := progPorseq_length_pos s.cfg (clampLines s.linesI)
  simpa [State.atEnd] using fun _ => List.ne_nil_of_length_pos hpos

/-! ## The control invariant -/

/-- The control invariant without what is owed. Every single move keeps it, where `owed` fails between the last
micro-operation and the end of the micro-program. -/
structure ControlCore (s : State) : Prop where
  upc_zero : s.ph = .idle ∨ s.ph = .fail → s.upc = 0#5
  in_reset : s.rst = true → s.ph = .por ∧ s.upc = 0#5
  busy_defined : s.ph = .busy → s.opq.toNat ≤ 4
  lines_legal : legalLines s.linesq = true
  cfg_valid : s.cfg.Valid

/-- A running micro-program owes the micro-operation at UPC exactly when the engine is not at its end. -/
theorem controlInv_iff (s : State) : ControlInv s ↔ ControlCore s ∧ s.atEnd = false := by
  have howed : (s.running = true → s.upc.toNat < s.program.length) ↔ s.atEnd = false := by
    simp [State.atEnd]
  constructor
  · intro h
    exact ⟨⟨h.upc_zero, h.in_reset, h.busy_defined, h.lines_legal, h.cfg_valid⟩, howed.mp h.owed⟩
  · rintro ⟨h, he⟩
    exact ⟨h.upc_zero, h.in_reset, h.busy_defined, h.lines_legal, h.cfg_valid, howed.mpr he⟩

namespace ControlCore

variable {s : State} (h : ControlCore s)
include h

/-- The moves inside a running micro-program change only UPC, PORT, the nibble phase and the trace. -/
theorem advance (hr : s.running = true) (n : BitVec 5) (p : Byte) (q : NibblePhase) (es : List Event) :
    ControlCore { s with upc := n, port := p, nph := q, trace := es } := by
  obtain ⟨hrst, hph⟩ := running_cases hr
  exact ⟨by rcases hph with hp | hp <;> simp [hp], by simp [hrst], h.busy_defined, h.lines_legal, h.cfg_valid⟩

theorem finish (he : s.atEnd = true) : ControlCore (finish s) := by
  obtain ⟨hrst, -⟩ := running_cases (atEnd_cases he).1
  rcases finish_cases he with ⟨-, e⟩ | ⟨-, e⟩ <;> rw [e] <;>
    exact ⟨by simp, by simp [hrst], by simp, h.lines_legal, h.cfg_valid⟩

theorem writeFailed {b : Byte} (hc : s.current = some (.write b)) : ControlCore (writeFailed b s) := by
  obtain ⟨hrst, -⟩ := running_cases (current_some hc).1
  rcases writeFailed_cases hc with ⟨-, e⟩ | ⟨-, e⟩ <;> rw [e] <;>
    exact ⟨by simp, by simp [hrst], by simp, h.lines_legal, h.cfg_valid⟩

theorem onInput (i : Input) : ControlCore (onInput i s) := by
  rcases onInput_cases i s with ⟨-, -, e⟩ | ⟨-, -, e⟩ | ⟨b, -, hc, e⟩ | ⟨b, -, hc, e⟩ | ⟨t, -, -, hc, e⟩ |
    ⟨a, l, v, w, e⟩ <;> rw [e]
  · exact ⟨by simp, by simp, by simp, by simpa using h.lines_legal, by simpa using h.cfg_valid⟩
  · exact ⟨by simp, by simp, by simp, legalLines_clampLines _, h.cfg_valid⟩
  · exact h.advance (current_some hc).1 _ _ _ _
  · exact h.writeFailed hc
  · exact h.advance (current_some hc).1 _ _ _ _
  · exact ⟨h.upc_zero, h.in_reset, h.busy_defined, h.lines_legal, h.cfg_valid⟩

theorem accept (hr : s.reqReady = true) {op : BitVec 3} (hop : op.toNat ≤ 4) (bl : Bit) (arg : Arg) :
    ControlCore (acceptRequest op bl arg s) := by
  obtain ⟨hrst, -⟩ := (reqReady_iff s).mp hr
  exact ⟨by simp, by simp [hrst], fun _ => hop, h.lines_legal, h.cfg_valid⟩

theorem reject (hr : s.reqReady = true) (op : BitVec 3) (bl : Bit) (arg : Arg) :
    ControlCore (respond .callerContractViolation (latchRequest op bl arg s)) := by
  obtain ⟨-, hp⟩ := (reqReady_iff s).mp hr
  exact ⟨h.upc_zero, h.in_reset, by simp [hp], h.lines_legal, h.cfg_valid⟩

/-- The inputs a state carries do not matter. -/
theorem with_inputs (l : List Input) : ControlCore { s with inputs := l } :=
  ⟨h.upc_zero, h.in_reset, h.busy_defined, h.lines_legal, h.cfg_valid⟩

end ControlCore

/-- Where nothing runs, one input is a reset edge or a change of port levels only. -/
theorem onInput_cases_of_not_running {s : State} (hr : s.running = false) (i : Input) :
    (i = .rst true ∧ s.rst = false ∧ onInput i s = assertReset s) ∨
    (i = .rst false ∧ s.rst = true ∧ onInput i s = releaseReset s) ∨
    (∃ a l v w, onInput i s = { s with addrI := a, linesI := l, reqValid := v, req := w }) := by
  have hcur := current_of_not_running hr
  rcases onInput_cases i s with h | h | ⟨b, -, hc, -⟩ | ⟨b, -, hc, -⟩ | ⟨t, -, -, hc, -⟩ | h
  · exact .inl h
  · exact .inr (.inl h)
  · simp [hcur] at hc
  · simp [hcur] at hc
  · simp [hcur] at hc
  · exact .inr (.inr h)

/-- Where nothing runs, an input leaves nothing running but a PORSEQ that owes its first micro-operation. -/
theorem onInput_atEnd_of_not_running {s : State} (hr : s.running = false) (i : Input) :
    (onInput i s).atEnd = false := by
  rcases onInput_cases_of_not_running hr i with ⟨-, -, e⟩ | ⟨-, -, e⟩ | ⟨a, l, v, w, e⟩
  · simp [e, State.atEnd, not_running_of_rst (assertReset_rst s)]
  · rw [e]; exact releaseReset_atEnd s
  · have hr' : (onInput i s).running = false := by rw [e]; exact hr
    simp [State.atEnd, hr']

/-- No step stops at the end of a micro-program: the engine has then taken the end too (R85). -/
theorem step_not_atEnd {s t : State} (h : step s = .next t) (hs : s.atEnd = false) : t.atEnd = false := by
  rcases step_cases h with ⟨op, bl, arg, -, -, rfl⟩ | ⟨op, bl, arg, hr, rfl⟩ | ⟨n, -, rfl⟩ |
    ⟨i, rest, hr, -, rfl⟩ | rfl
  · exact runInputs_not_atEnd _ _ _
  · have hidle : (respond .callerContractViolation (latchRequest op bl arg s)).running = false :=
      not_running_of_ph (.inl ((reqReady_iff s).mp hr).2)
    simp [State.atEnd, hidle]
  · exact runInputs_not_atEnd _ _ _
  · exact onInput_atEnd_of_not_running (s := { s with inputs := rest }) hr i
  · exact hs

theorem step_keeps_controlCore {s t : State} (h : step s = .next t) (hs : ControlCore s) : ControlCore t :=
  step_induction ControlCore
    (fun _ bl arg _ hu hr hop => hu.accept hr hop bl arg)
    (fun op bl arg _ hu hr => hu.reject hr op bl arg)
    (fun _ hu hc => hu.advance (current_some hc).1 _ _ _ _)
    (fun _ hu he => hu.finish he)
    (fun i rest _ hu => (hu.with_inputs rest).onInput i)
    h hs

/-- Settles O41: the moves keep everything but what is owed, and a step ends where the engine has settled. -/
theorem controlInvIsKept : Obligations.ControlInvIsKept := by
  intro s t hs hstep
  obtain ⟨hcore, hend⟩ := (controlInv_iff s).mp hs
  exact (controlInv_iff t).mpr ⟨step_keeps_controlCore hstep hcore, step_not_atEnd hstep hend⟩

/-! ## The far side: bytes and nibble phase of whole micro-programs -/

@[simp] theorem NibblePhase.unknown_after (l : Latched) : NibblePhase.unknown.after l = .unknown := rfl

/-- The two latched nibbles of a logical byte bring the phase back to where it was. -/
theorem NibblePhase.after_two_nibbles (q : NibblePhase) (r r' : Bit) (n n' : Nibble) :
    (q.after (.nibble r n)).after (.nibble r' n') = q := by
  cases q <;> rfl

@[simp] theorem NibblePhase.after_nothing (q : NibblePhase) : q.after .nothing = q := by
  cases q <;> rfl

/-- XFER leaves its last byte at PORT, the enable line low, and two nibbles latched (R104). -/
theorem afterWrites_xfer (q : NibblePhase) (p v : Byte) (rs bl : Bit) :
    portAfter p (writesOf (xfer v rs bl)) = pack (loNibble v) rs bl 0#1 ∧
    q.afterWrites p (writesOf (xfer v rs bl)) = q := by
  simp [xfer, strobe, writesOf, portAfter, NibblePhase.afterWrites, NibblePhase.after_two_nibbles]

theorem writesOf_progWrcmd (c : Config) (bl : Bit) (v : Byte) :
    writesOf (progWrcmd c bl v) = writesOf (xfer v 0 bl) := by
  rw [progWrcmd, writesOf_append]
  split <;> simp [writesOf]

/-- A whole request leaves the enable line low and the nibble phase at a high half, as it found them. -/
theorem afterWrites_requestProgram (c : Config) (op : BitVec 3) (bl : Bit) (arg : Arg) {p : Byte}
    (hp : enableBit p = false) :
    enableBit (portAfter p (writesOf (requestProgram c op bl arg))) = false ∧
    NibblePhase.high.afterWrites p (writesOf (requestProgram c op bl arg)) = .high := by
  unfold requestProgram
  split
  · obtain ⟨hport, hnph⟩ := afterWrites_xfer .high p (argByte arg) 0 bl
    rw [writesOf_progWrcmd, hport, hnph]
    simp
  · obtain ⟨hport, hnph⟩ := afterWrites_xfer .high p (argByte arg) 1 bl
    rw [progWrdata, hport, hnph]
    simp
  · simp [progBlon, writesOf, portAfter, NibblePhase.afterWrites, latchAt_low hp]
  · simp [progBloff, writesOf, portAfter, NibblePhase.afterWrites, latchAt_low hp]
  · exact ⟨hp, rfl⟩
  · exact ⟨hp, rfl⟩

/-- PORSEQ leaves the enable line low, whatever PORT held before. -/
theorem portAfter_progPorseq (c : Config) (l : BitVec 3) (p : Byte) :
    enableBit (portAfter p (writesOf (progPorseq c l))) = false := by
  rw [progPorseq, writesOf_append, portAfter_append, writesOf_progWrcmd, (afterWrites_xfer .high _ _ _ _).1]
  simp

/-! ## The bytes a micro-program has written so far -/

/-- The bytes below UPC of the micro-program in progress. -/
def State.written (s : State) : List Byte := writesOf (s.program.take s.upc.toNat)

/-- One micro-operation further, its byte is among those written. -/
theorem writesOf_take_succ {s : State} {op : MicroOp} (hc : s.current = some op) :
    writesOf (s.program.take (s.upc + 1#5).toNat) = s.written ++ writesOf [op] := by
  rw [upc_succ_toNat hc, List.take_add_one, (current_some hc).2, writesOf_append]
  rfl

theorem written_skipSleep {s : State} {t : Arg} (hc : s.current = some (.sleep t)) :
    (skipSleep s).written = s.written :=
  (writesOf_take_succ hc).trans (List.append_nil _)

theorem written_sleepEnded {s : State} {t : Arg} (hc : s.current = some (.sleep t)) :
    (sleepEnded t s).written = s.written :=
  (writesOf_take_succ hc).trans (List.append_nil _)

theorem written_writeSucceeded {s : State} {b : Byte} (hc : s.current = some (.write b)) :
    (writeSucceeded b s).written = s.written ++ [b] :=
  writesOf_take_succ hc

theorem written_atEnd {s : State} (he : s.atEnd = true) : s.written = writesOf s.program := by
  rw [State.written, List.take_of_length_le (atEnd_cases he).2]

theorem written_upc_zero {s : State} (hu : s.upc = 0#5) : s.written = [] := by
  simp [State.written, hu, writesOf]

/-! ## The far-side invariant -/

theorem farSideInv_por {s : State} (hp : s.ph = .por) :
    FarSideInv s ↔ s.nph = .unknown ∧ ∃ p, s.port = portAfter p s.written := by
  simp [FarSideInv, hp, State.written]

theorem farSideInv_busy {s : State} (hp : s.ph = .busy) :
    FarSideInv s ↔ s.nph = .unknown ∨
      ∃ p, enableBit p = false ∧ s.port = portAfter p s.written ∧ s.nph = .afterWrites .high p s.written := by
  simp [FarSideInv, hp, State.written]

theorem farSideInv_idle {s : State} (hp : s.ph = .idle) :
    FarSideInv s ↔ s.nph = .unknown ∨ (s.nph = .high ∧ enableBit s.port = false) := by
  simp [FarSideInv, hp]

/-- Where the micro-program starts at UPC 0 and the phase is unknown, nothing has to be known of PORT. -/
theorem farSideInv_por_start {s : State} (hp : s.ph = .por) (hu : s.upc = 0#5) (hq : s.nph = .unknown) :
    FarSideInv s :=
  (farSideInv_por hp).mpr ⟨hq, s.port, by rw [written_upc_zero hu]; rfl⟩

/-- After a failed write the phase is unknown, so nothing else has to hold (R37). -/
theorem farSideInv_writeFailed {s : State} {b : Byte} (hc : s.current = some (.write b)) :
    FarSideInv (writeFailed b s) := by
  rcases writeFailed_cases hc with ⟨-, e⟩ | ⟨-, e⟩ <;> simp [e, FarSideInv]

namespace FarSideInv

variable {s : State} (h : FarSideInv s)
include h

/-- A move of a running micro-program that writes nothing. -/
theorem of_same_written {u : State} (hr : s.running = true) (hph : u.ph = s.ph) (hq : u.nph = s.nph)
    (hport : u.port = s.port) (hw : u.written = s.written) : FarSideInv u := by
  rcases (running_cases hr).2 with hp | hp
  · rw [farSideInv_busy (hph.trans hp), hq, hport, hw]
    exact (farSideInv_busy hp).mp h
  · rw [farSideInv_por (hph.trans hp), hq, hport, hw]
    exact (farSideInv_por hp).mp h

theorem writeSucceeded {b : Byte} (hc : s.current = some (.write b)) : FarSideInv (writeSucceeded b s) := by
  have hw := written_writeSucceeded hc
  rcases (running_cases (current_some hc).1).2 with hp | hp
  · rw [farSideInv_busy (by exact hp), hw]
    rcases (farSideInv_busy hp).mp h with hq | ⟨p, hlow, hport, hq⟩
    · exact .inl (by simp [hq])
    · exact .inr ⟨p, hlow, by simp [portAfter_append, portAfter],
        by simp [afterWrites_append, NibblePhase.afterWrites, hport, hq]⟩
  · rw [farSideInv_por (by exact hp), hw]
    obtain ⟨hq, p, -⟩ := (farSideInv_por hp).mp h
    exact ⟨by simp [hq], p, by simp [portAfter_append, portAfter]⟩

/-- A whole micro-program ends in PH_IDLE with the far side in step. -/
theorem finish (he : s.atEnd = true) : FarSideInv (finish s) := by
  have hw := written_atEnd he
  rcases finish_cases he with ⟨hp, e⟩ | ⟨hp, e⟩
  · have hprog : s.program = requestProgram s.cfg s.opq s.blq s.argq := by simp [State.program, hp]
    rw [e, farSideInv_idle (by simp)]
    rcases (farSideInv_busy hp).mp h with hq | ⟨p, hlow, hport, hq⟩
    · exact .inl hq
    · obtain ⟨hlow', hhigh⟩ := afterWrites_requestProgram s.cfg s.opq s.blq s.argq hlow
      rw [hw, hprog] at hport hq
      exact .inr ⟨hq.trans hhigh, by simpa [hport] using hlow'⟩
  · have hprog : s.program = progPorseq s.cfg s.linesq := by simp [State.program, hp]
    obtain ⟨-, p, hport⟩ := (farSideInv_por hp).mp h
    rw [hw, hprog] at hport
    rw [e, farSideInv_idle (by simp)]
    exact .inr ⟨rfl, by simpa [hport] using portAfter_progPorseq s.cfg s.linesq p⟩

theorem onInput (hcore : ControlCore s) (i : Input) : FarSideInv (onInput i s) := by
  rcases onInput_cases i s with ⟨-, -, e⟩ | ⟨-, hrst, e⟩ | ⟨b, -, hc, e⟩ | ⟨b, -, hc, e⟩ | ⟨t, -, -, hc, e⟩ |
    ⟨a, l, v, w, e⟩ <;> rw [e]
  · exact farSideInv_por_start (by simp) (by simp) (by simp)
  · obtain ⟨hq, -⟩ := (farSideInv_por (hcore.in_reset hrst).1).mp h
    exact farSideInv_por_start rfl rfl hq
  · exact h.writeSucceeded hc
  · exact farSideInv_writeFailed hc
  · exact h.of_same_written (current_some hc).1 rfl rfl rfl (written_sleepEnded hc)
  · exact h

theorem accept (hr : s.reqReady = true) (op : BitVec 3) (bl : Bit) (arg : Arg) :
    FarSideInv (acceptRequest op bl arg s) := by
  rw [farSideInv_busy (by simp), written_upc_zero (by simp)]
  rcases (farSideInv_idle ((reqReady_iff s).mp hr).2).mp h with hq | ⟨hq, hlow⟩
  · exact .inl hq
  · exact .inr ⟨s.port, hlow, rfl, hq⟩

theorem reject (hr : s.reqReady = true) (op : BitVec 3) (bl : Bit) (arg : Arg) :
    FarSideInv (respond .callerContractViolation (latchRequest op bl arg s)) := by
  have hp := ((reqReady_iff s).mp hr).2
  exact (farSideInv_idle (by simpa using hp)).mpr ((farSideInv_idle hp).mp h)

end FarSideInv

/-- Settles O42: the far-side invariant is kept by every move, beside the control invariant's part that moves keep. -/
theorem farSideInvIsKept : Obligations.FarSideInvIsKept := by
  intro s t hs hfar hstep
  have key := step_induction (fun u => ControlCore u ∧ FarSideInv u)
    (fun op bl arg _ hu hr hop => ⟨hu.1.accept hr hop bl arg, hu.2.accept hr op bl arg⟩)
    (fun op bl arg _ hu hr => ⟨hu.1.reject hr op bl arg, hu.2.reject hr op bl arg⟩)
    (fun _ hu hc => ⟨hu.1.advance (current_some hc).1 _ _ _ _,
      hu.2.of_same_written (current_some hc).1 rfl rfl rfl (written_skipSleep hc)⟩)
    (fun _ hu he => ⟨hu.1.finish he, hu.2.finish he⟩)
    (fun i rest u hu => ⟨(hu.1.with_inputs rest).onInput i,
      FarSideInv.onInput (s := { u with inputs := rest }) hu.2 (hu.1.with_inputs rest) i⟩)
    hstep ⟨((controlInv_iff s).mp hs).1, hfar⟩
  exact key.2

/-- Settles O44: the straps are clamped, the default configuration is valid, and nothing has been written. -/
theorem invariantsHoldAtReset : Obligations.InvariantsHoldAtReset := by
  have hcore : ControlCore State.reset :=
    ⟨fun _ => rfl, (nomatch ·), (nomatch ·), legalLines_clampLines Config.lines,
      show Config.default.Valid by decide⟩
  refine ⟨(controlInv_iff _).mpr ⟨hcore, releaseReset_atEnd State.reset⟩, farSideInv_por_start rfl rfl rfl, ?_⟩
  simp [RwLow, State.reset]

/-- Settles O31: the fields of `State.reset` as R39 gives them. -/
theorem resetStateIsTheReleaseOfReset : Obligations.ResetStateIsTheReleaseOfReset :=
  ⟨rfl, rfl, rfl, rfl, rfl, rfl, rfl, rfl, rfl, rfl, rfl, rfl⟩

/-- Settles O32, phase by phase. -/
theorem statusOutputsFollowThePhase : Obligations.StatusOutputsFollowThePhase := by
  refine ⟨fun s => ?_, rfl, rfl⟩
  cases hp : s.ph <;> simp [State.initd, State.faild, Phase.code, hp]

end Sys2Proof.Machine
end

section
/-! PROOF. What the engine can do from a running state, said once (30_encoding.md R85), and from it the statements on
the phases (10_state.md R27), the frame of a request and the nibble phase. -/

namespace Sys2Proof.Machine

/-! ## One input, and the phases in which nothing runs -/

theorem bwOut_of_current {s : State} {b : Byte} (hc : s.current = some (.write b)) :
    s.bwOut = some (s.addr, b) := by
  simp [State.bwOut, hc]

/-- Settles O33: of what one input can do, only the two reset edges and a failed write change the phase. -/
theorem oneInputChangesThePhaseOnlyAsTheTableSays : Obligations.OneInputChangesThePhaseOnlyAsTheTableSays := by
  intro s i
  rcases onInput_cases i s with ⟨hi, hr, e⟩ | ⟨hi, hr, e⟩ | ⟨b, -, -, e⟩ | ⟨b, hi, hc, e⟩ | ⟨t, -, -, -, e⟩ |
    ⟨a, l, v, w, e⟩
  · exact .inr (.inl ⟨hi, hr, by simp [e]⟩)
  · exact .inr (.inr (.inl ⟨hi, hr, by simp [e]⟩))
  · exact .inl (by simp [e])
  · refine .inr (.inr (.inr ⟨hi, (running_cases (current_some hc).1).1, ⟨b, bwOut_of_current hc⟩, ?_⟩))
    rcases writeFailed_cases hc with ⟨hp, e'⟩ | ⟨hp, e'⟩
    · exact .inl ⟨hp, by rw [e, e']⟩
    · exact .inr ⟨hp, by rw [e, e']⟩
  · exact .inl (by simp [e])
  · exact .inl (by rw [e])

/-- Where nothing runs and no offered request is accepted, the step takes the next input. -/
theorem step_of_not_running {s : State} (hr : s.running = false) (hf : s.reqReady = true → s.reqValid = false) :
    step s = .next (takeInput s) := by
  have hnone : fetch s = none := by
    by_cases hready : s.reqReady = true
    · simp [fetch, hready, hf hready]
    · simp [fetch, hready, sequencerIssues, hr]
  simp [step, hnone, idleStep, hr]

/-- What taking the next input does where nothing runs. -/
theorem takeInput_cases_of_not_running {s : State} (hr : s.running = false) :
    (s.inputs.head? = some (.rst true) ∧ s.rst = false ∧ ∃ l, takeInput s = assertReset { s with inputs := l }) ∨
    (s.inputs.head? = some (.rst false) ∧ s.rst = true ∧ ∃ l, takeInput s = releaseReset { s with inputs := l }) ∨
    (∃ ins a l v w, takeInput s = { s with inputs := ins, addrI := a, linesI := l, reqValid := v, req := w }) := by
  cases hi : s.inputs with
  | nil =>
    have htake : takeInput s = s := by simp [takeInput, hi]
    exact .inr (.inr ⟨s.inputs, s.addrI, s.linesI, s.reqValid, s.req, htake⟩)
  | cons i rest =>
    have htake : takeInput s = onInput i { s with inputs := rest } := by simp [takeInput, hi]
    rw [htake]
    rcases onInput_cases_of_not_running (s := { s with inputs := rest }) hr i with ⟨rfl, h, e⟩ | ⟨rfl, h, e⟩ |
      ⟨a, l, v, w, e⟩
    · exact .inl ⟨rfl, h, rest, e⟩
    · exact .inr (.inl ⟨rfl, h, rest, e⟩)
    · exact .inr (.inr ⟨rest, a, l, v, w, e⟩)

/-- Settles O24: in PH_FAIL nothing runs and nothing is accepted, so a step only takes an input. -/
theorem nothingButResetLeavesFail : Obligations.NothingButResetLeavesFail := by
  intro s t hp hrst hhead hstep
  have hr : s.running = false := not_running_of_ph (.inr hp)
  rw [step_of_not_running hr (by simp [State.reqReady, hp])] at hstep
  obtain rfl := Host.Outcome.next.inj hstep
  rcases takeInput_cases_of_not_running hr with ⟨hhead', -⟩ | ⟨-, hrst', -⟩ | ⟨ins, a, l, v, w, e⟩
  · exact absurd hhead' hhead
  · simp [hrst] at hrst'
  · simp [e, hp, State.reqReady]

/-! ## What the engine does from a running state -/

/-- A completed write to this device, or a completed sleep. -/
def Event.completed (a : DevAddr) : Event → Bool
  | .write a' _ => a' == a
  | .sleep _ => true
  | .writeFailed .. | .writeAbandoned .. | .sleepAbandoned _ | .resp _ => false

theorem Event.completed_not_response {a : DevAddr} {e : Event} (h : e.completed a = true) : e.isResponse = false := by
  cases e <;> simp_all [Event.completed, Event.isResponse]

theorem not_mem_of_completed {a : DevAddr} {es : List Event} (h : ∀ e ∈ es, e.completed a = true) (b : Byte) :
    .writeFailed a b ∉ es :=
  fun hm => nomatch h _ hm

theorem bytes_append_write (es : List Event) (a : DevAddr) (b : Byte) :
    (es ++ [Event.write a b]).filterMap Event.byte = es.filterMap Event.byte ++ [b] :=
  List.filterMap_append

theorem bytes_append_of_none (es : List Event) {e : Event} (he : e.byte = none) :
    (es ++ [e]).filterMap Event.byte = es.filterMap Event.byte := by
  rw [List.filterMap_append, List.filterMap_cons_none he, List.filterMap_nil, List.append_nil]

theorem portAfter_cases (p : Byte) (bs : List Byte) : portAfter p bs = p ∨ portAfter p bs ∈ bs := by
  induction bs generalizing p with
  | nil => exact .inl rfl
  | cons b bs ih =>
    rcases ih b with h | h
    · exact .inr (by simp [portAfter, h])
    · exact .inr (List.mem_cons_of_mem _ h)

/-- A completed event with a byte is a write to the device. -/
theorem Event.eq_write_of_completed {a : DevAddr} {b : Byte} {e : Event} (h : e.completed a = true)
    (hb : e.byte = some b) : e = .write a b := by
  cases e <;> simp_all [Event.completed, Event.byte]

/-- From `s` the engine has come to `u` with the events `es`, and is still in the same micro-program: no write has
failed, reset has not risen, and PORT and the nibble phase are what the writes among `es` make of them. -/
structure Working (s : State) (es : List Event) (u : State) : Prop where
  cfg : u.cfg = s.cfg
  addr : u.addr = s.addr
  linesq : u.linesq = s.linesq
  opq : u.opq = s.opq
  blq : u.blq = s.blq
  argq : u.argq = s.argq
  ph : u.ph = s.ph
  rst : u.rst = s.rst
  trace : u.trace = s.trace ++ es
  completed : ∀ e ∈ es, e.completed s.addr = true
  port : u.port = portAfter s.port (es.filterMap Event.byte)
  nph : u.nph = s.nph.afterWrites s.port (es.filterMap Event.byte)

/-- What the engine answers from a running `s`: it waits or has come to its stop, its micro-program has ended, a
write has failed, or reset has risen. -/
inductive EngineResult (s : State) : State → Prop where
  | working {es : List Event} {u : State} (h : Working s es u) : EngineResult s u
  | finished {es : List Event} {u : State} (h : Working s es u) (he : u.atEnd = true) : EngineResult s (finish u)
  | failed {es : List Event} {u : State} {b : Byte} (h : Working s es u) (hc : u.current = some (.write b)) :
      EngineResult s (writeFailed b u)
  | reset {es : List Event} {u : State} (h : Working s es u) : EngineResult s (assertReset u)

namespace Working

variable {s u : State} {es : List Event}

theorem refl (s : State) : Working s [] s :=
  ⟨rfl, rfl, rfl, rfl, rfl, rfl, rfl, rfl, by simp, by simp, rfl, rfl⟩

/-- Levels of input ports and the place in the micro-program do not matter. -/
theorem with_ports (h : Working s es u) (n : BitVec 5) (ins : List Input) (a : DevAddr) (l : BitVec 3) (v : Bool)
    (w : Request) :
    Working s es { u with upc := n, inputs := ins, addrI := a, linesI := l, reqValid := v, req := w } :=
  ⟨h.cfg, h.addr, h.linesq, h.opq, h.blq, h.argq, h.ph, h.rst, h.trace, h.completed, h.port, h.nph⟩

theorem writeSucceeded (h : Working s es u) (b : Byte) :
    Working s (es ++ [.write s.addr b]) (writeSucceeded b u) := by
  refine ⟨h.cfg, h.addr, h.linesq, h.opq, h.blq, h.argq, h.ph, h.rst, ?_, ?_, ?_, ?_⟩
  · simp [h.trace, h.addr]
  · simpa [or_imp, forall_and, Event.completed] using h.completed
  · rw [bytes_append_write, portAfter_append]; rfl
  · rw [bytes_append_write, afterWrites_append, ← h.port, ← h.nph]; rfl

theorem sleepEnded (h : Working s es u) (t : Arg) : Working s (es ++ [.sleep t]) (sleepEnded t u) := by
  refine ⟨h.cfg, h.addr, h.linesq, h.opq, h.blq, h.argq, h.ph, h.rst, ?_, ?_, ?_, ?_⟩
  · simp [h.trace]
  · simpa [or_imp, forall_and, Event.completed] using h.completed
  · rw [bytes_append_of_none es rfl]; exact h.port
  · rw [bytes_append_of_none es rfl]; exact h.nph

/-- PORT holds what it held, or the byte of the last completed write. -/
theorem port_cases (h : Working s es u) : u.port = s.port ∨ .write s.addr u.port ∈ es := by
  rcases portAfter_cases s.port (es.filterMap Event.byte) with hp | hp <;> rw [← h.port] at hp
  · exact .inl hp
  · obtain ⟨e, he, hb⟩ := List.mem_filterMap.mp hp
    exact .inr (Event.eq_write_of_completed (h.completed e he) hb ▸ he)

theorem not_failed (h : Working s es u) (b : Byte) : .writeFailed s.addr b ∉ es :=
  not_mem_of_completed h.completed b

theorem no_response (h : Working s es u) : ∀ e ∈ es, e.isResponse = false :=
  fun e he => Event.completed_not_response (h.completed e he)

end Working

theorem finish_busy {u : State} (hp : u.ph = .busy) :
    finish u = respond .ok { u with ph := .idle, upc := 0#5 } := by
  simp [finish, hp]

theorem finish_por {u : State} (hp : u.ph = .por) : finish u = { u with ph := .idle, upc := 0#5, nph := .high } := by
  simp [finish, hp]

theorem not_running_finish {u : State} (he : u.atEnd = true) : (finish u).running = false :=
  not_running_of_ph (.inl (by rcases finish_cases he with ⟨-, e⟩ | ⟨-, e⟩ <;> simp [e]))

theorem not_running_writeFailed {u : State} {b : Byte} (hc : u.current = some (.write b)) :
    (writeFailed b u).running = false :=
  not_running_of_ph (by rcases writeFailed_cases hc with ⟨-, e⟩ | ⟨-, e⟩ <;> simp [e])

/-- A result that still runs is one in the same micro-program. -/
theorem EngineResult.working_of_running {s u : State} (h : EngineResult s u) (hr : u.running = true) :
    ∃ es, Working s es u := by
  cases h with
  | working h => exact ⟨_, h⟩
  | finished h he => simp [not_running_finish he] at hr
  | failed h hc => simp [not_running_writeFailed hc] at hr
  | reset h => simp [not_running_of_rst (assertReset_rst _)] at hr

theorem Working.onInput {s u : State} {es : List Event} (h : Working s es u) (hr : u.running = true) (i : Input) :
    EngineResult s (onInput i u) := by
  rcases onInput_cases i u with ⟨-, -, e⟩ | ⟨-, hrst, -⟩ | ⟨b, -, -, e⟩ | ⟨b, -, hc, e⟩ | ⟨t, -, -, -, e⟩ |
    ⟨a, l, v, w, e⟩
  · rw [e]; exact .reset h
  · simp [(running_cases hr).1] at hrst
  · rw [e]; exact .working (h.writeSucceeded b)
  · rw [e]; exact .failed h hc
  · rw [e]; exact .working (h.sleepEnded t)
  · rw [e]; exact .working (h.with_ports _ _ a l v w)

/-- Everything the engine can do, for any inputs and any stop. -/
theorem runInputs_result (stop : Nat) (ins : List Input) (s : State) : EngineResult s (runInputs stop ins s) := by
  refine runInputs_induction (EngineResult s) ?skip ?fin ?input stop ins s (.working (.refl s))
  case skip =>
    intro u hu hc
    obtain ⟨es, h⟩ := hu.working_of_running (current_some hc).1
    exact .working (h.with_ports _ _ _ _ _ _)
  case fin =>
    intro u hu he
    obtain ⟨es, h⟩ := hu.working_of_running (atEnd_cases he).1
    exact .finished h he
  case input =>
    intro i rest u hu hr _
    obtain ⟨es, h⟩ := hu.working_of_running hr
    exact (h.with_ports u.upc rest _ _ _ _).onInput hr i

/-! ## What every result leaves unchanged -/

namespace EngineResult

variable {s t : State}

theorem frame (h : EngineResult s t) : t.cfg = s.cfg ∧ t.addr = s.addr ∧ t.linesq = s.linesq := by
  cases h with
  | working h => exact ⟨h.cfg, h.addr, h.linesq⟩
  | finished h _ => simp [h.cfg, h.addr, h.linesq]
  | failed h _ => simp [h.cfg, h.addr, h.linesq]
  | reset h => simp [h.cfg, h.addr, h.linesq]

theorem latches (h : EngineResult s t) (hrst : t.rst = false) :
    t.opq = s.opq ∧ t.blq = s.blq ∧ t.argq = s.argq := by
  cases h with
  | working h => exact ⟨h.opq, h.blq, h.argq⟩
  | finished h _ => simp [h.opq, h.blq, h.argq]
  | failed h _ => simp [h.opq, h.blq, h.argq]
  | reset h => simp at hrst

end EngineResult

/-! ## The rows of the transition table for a running engine -/

/-- What reset adds to the trace is no response. -/
theorem assertReset_extends (s : State) :
    ∃ es, (assertReset s).trace = s.trace ++ es ∧ ∀ e ∈ es, e.isResponse = false := by
  rw [assertReset_trace]
  rcases abandon_trace s with ⟨b, -, h⟩ | ⟨t, -, h⟩ | h
  · exact ⟨_, h, by simp [Event.isResponse]⟩
  · exact ⟨_, h, by simp [Event.isResponse]⟩
  · exact ⟨[], by simp [h], by simp⟩

/-- When reset cuts the engine, the events before it and the one it leaves are no responses. -/
theorem Working.reset_row {s u : State} {es : List Event} (h : Working s es u) :
    ∃ es', (assertReset u).trace = s.trace ++ es' ∧ ∀ e ∈ es', e.isResponse = false := by
  obtain ⟨cut, htrace, hcut⟩ := assertReset_extends u
  refine ⟨es ++ cut, by rw [htrace, h.trace, List.append_assoc], fun e he => ?_⟩
  rcases List.mem_append.mp he with he | he
  · exact h.no_response e he
  · exact hcut e he

/-- The rows of R27 that leave PH_BUSY, over any stretch of a request's run. -/
theorem EngineResult.busy_rows {s t : State} (h : EngineResult s t) (hp : s.ph = .busy) (hrst : s.rst = false) :
    ∃ es, t.trace = s.trace ++ es ∧
      ((t.rst = true ∧ t.ph = .por ∧ t.upc = 0 ∧ ∀ e ∈ es, e.isResponse = false) ∨
       (t.rst = false ∧ t.ph = .busy ∧ ∀ e ∈ es, e.isResponse = false) ∨
       (t.rst = false ∧ t.ph = .idle ∧ t.upc = 0 ∧
         (es.getLast? = some (.resp .ok) ∨ es.getLast? = some (.resp .busTransactionError)))) := by
  cases h with
  | @working es u h => exact ⟨es, h.trace, .inr (.inl ⟨h.rst.trans hrst, h.ph.trans hp, h.no_response⟩)⟩
  | @finished es u h he =>
    have e := finish_busy (h.ph.trans hp)
    exact ⟨es ++ [.resp .ok], by simp [e, h.trace],
      .inr (.inr ⟨by simp [h.rst, hrst], by simp [e], by simp [e], .inl (by simp)⟩)⟩
  | @failed es u b h hc =>
    rcases writeFailed_cases hc with ⟨-, e⟩ | ⟨hu, -⟩
    · exact ⟨es ++ [.writeFailed u.addr b, .resp .busTransactionError], by simp [e, h.trace],
        .inr (.inr ⟨by simp [h.rst, hrst], by simp [e], by simp [e], .inr (by simp)⟩)⟩
    · simp [h.ph, hp] at hu
  | reset h =>
    obtain ⟨es', htrace, hno⟩ := h.reset_row
    exact ⟨es', htrace, .inl ⟨by simp, by simp, by simp, hno⟩⟩

/-- The rows of R27 that leave PH_POR, over any stretch of PORSEQ. -/
theorem EngineResult.por_rows {s t : State} (h : EngineResult s t) (hp : s.ph = .por) (hrst : s.rst = false) :
    ∃ es, t.trace = s.trace ++ es ∧ (∀ e ∈ es, e.isResponse = false) ∧
      ((t.rst = true ∧ t.ph = .por ∧ t.upc = 0) ∨
       (t.rst = false ∧ (t.ph = .por ∨ t.ph = .idle ∧ t.upc = 0) ∧ ∀ b, .writeFailed s.addr b ∉ es) ∨
       (t.rst = false ∧ t.ph = .fail ∧ t.upc = 0 ∧ ∃ b, es.getLast? = some (.writeFailed s.addr b))) := by
  cases h with
  | @working es u h =>
    exact ⟨es, h.trace, h.no_response, .inr (.inl ⟨h.rst.trans hrst, .inl (h.ph.trans hp), h.not_failed⟩)⟩
  | @finished es u h he =>
    have e := finish_por (h.ph.trans hp)
    exact ⟨es, by simp [e, h.trace], h.no_response,
      .inr (.inl ⟨by simp [h.rst, hrst], .inr (by simp [e]), h.not_failed⟩)⟩
  | @failed es u b h hc =>
    rcases writeFailed_cases hc with ⟨hu, -⟩ | ⟨-, e⟩
    · simp [h.ph, hp] at hu
    · refine ⟨es ++ [.writeFailed s.addr b], by simp [e, h.trace, h.addr], ?_,
        .inr (.inr ⟨by simp [h.rst, hrst], by simp [e], by simp [e], b, by simp⟩)⟩
      simpa [or_imp, forall_and, Event.isResponse] using h.no_response
  | reset h =>
    obtain ⟨es', htrace, hno⟩ := h.reset_row
    exact ⟨es', htrace, hno, .inl ⟨by simp, by simp, by simp⟩⟩

/-! ## What a step and a request answer -/

/-- A step from a running state is a stretch of the engine's run. -/
theorem step_result {s t : State} (hr : s.running = true) (h : step s = .next t) : EngineResult s t := by
  have hready : s.reqReady ≠ true := fun hready => by
    simp [not_running_of_ph (.inl ((reqReady_iff s).mp hready).2)] at hr
  rcases step_cases h with ⟨_, _, _, hready', -⟩ | ⟨_, _, _, hready', -⟩ | ⟨n, -, rfl⟩ | ⟨_, _, hr', -⟩ | rfl
  · exact absurd hready' hready
  · exact absurd hready' hready
  · exact runInputs_result _ _ _
  · simp [hr] at hr'
  · exact .working (.refl _)

/-- An accepted request is the engine's run from its acceptance. -/
theorem resume_accept_result (op : BitVec 3) (bl : Bit) (arg : Arg) (s : State) :
    EngineResult (acceptRequest op bl arg s) (resume (acceptRequest op bl arg s)) :=
  runInputs_result _ _ _

/-- The two halves of `arg` put together again (R72). -/
theorem argIgnored_append_argByte (a : Arg) : argIgnored a ++ argByte a = a := by
  ext i hi
  simp [argIgnored, argByte]
  grind

/-- A request word is run or rejected by its `op` alone, with the latches' fields of the word (R21, R73, R174). -/
theorem exec_decodeRequest (w : Request) (s : State) :
    exec (decodeRequest w) s =
      .next (if w.op.toNat ≤ 4 then runRequest w.op w.bl w.arg s else rejectRequest w.op w.bl w.arg s) := by
  have hop : ∀ k : BitVec 3, w.op.toNat = k.toNat → w.op = k := fun k => BitVec.eq_of_toNat_eq
  unfold decodeRequest
  split
  case h_1 h => simp [exec, execWrcmd, argIgnored_append_argByte, hop 0 h]
  case h_2 h => simp [exec, execWrdata, argIgnored_append_argByte, hop 1 h]
  case h_3 h => simp [exec, execBlon, hop 2 h]
  case h_4 h => simp [exec, execBloff, hop 3 h]
  case h_5 h => simp [exec, execDelay, hop 4 h]
  case h_6 h => simp [exec, execRsvd5, hop 5 h]
  case h_7 h => simp [exec, execRsvd6, hop 6 h]
  case h_8 h0 h1 h2 h3 h4 h5 h6 =>
    have h : w.op.toNat = 7 := by have := w.op.isLt; grind
    simp [exec, execRsvd7, hop 7 h]

/-- What exec of a request word answers. -/
theorem exec_decodeRequest_cases {w : Request} {s t : State} (h : exec (decodeRequest w) s = .next t) :
    (s.reqReady = true ∧ w.op.toNat ≤ 4 ∧ EngineResult (acceptRequest w.op w.bl w.arg s) t) ∨
    (s.reqReady = true ∧ 5 ≤ w.op.toNat ∧
      t = respond .callerContractViolation (latchRequest w.op w.bl w.arg s)) ∨
    (s.reqReady = false ∧ t = s) := by
  rw [exec_decodeRequest] at h
  obtain rfl := Host.Outcome.next.inj h
  by_cases hr : s.reqReady = true
  · by_cases hop : w.op.toNat ≤ 4
    · exact .inl ⟨hr, hop, by simpa [hop, runRequest, hr] using resume_accept_result w.op w.bl w.arg s⟩
    · exact .inr (.inl ⟨hr, by omega, by simp [hop, rejectRequest, hr]⟩)
  · exact .inr (.inr ⟨by simpa using hr, by simp [runRequest, rejectRequest, hr]⟩)

/-! ## Configuration and frame -/

/-- Settles O36: the engine and an accepted request leave ADDR and LINESQ alone; elsewhere one input is taken, and
only the fall of reset captures the straps. -/
theorem configurationChangesOnlyAtRelease : Obligations.ConfigurationChangesOnlyAtRelease := by
  intro s t h
  rcases step_cases h with ⟨op, bl, arg, -, -, rfl⟩ | ⟨op, bl, arg, -, rfl⟩ | ⟨n, -, rfl⟩ |
    ⟨i, rest, -, hi, rfl⟩ | rfl
  · obtain ⟨hcfg, haddr, hlines⟩ := (resume_accept_result op bl arg s).frame
    exact ⟨hcfg, fun _ => ⟨haddr, hlines⟩⟩
  · simp
  · obtain ⟨hcfg, haddr, hlines⟩ := (runInputs_result n s.inputs s).frame
    exact ⟨hcfg, fun _ => ⟨haddr, hlines⟩⟩
  · obtain ⟨hcfg, haddr, -⟩ := onInput_frame i { s with inputs := rest }
    exact ⟨hcfg, fun hor => haddr (by simpa [hi] using hor)⟩
  · simp

/-- PORT after any stretch of the engine's run: what it held or a byte written, unless a write failed or reset rose. -/
theorem EngineResult.port_cases {s t : State} (h : EngineResult s t) :
    ∃ es, t.trace = s.trace ++ es ∧
      (t.port = s.port ∨ .write s.addr t.port ∈ es ∨ (∃ b, .writeFailed s.addr b ∈ es) ∨ t.rst = true) := by
  cases h with
  | @working es u h => exact ⟨es, h.trace, h.port_cases.imp_right .inl⟩
  | @finished es u h he =>
    obtain ⟨es', htrace⟩ : ∃ es', (finish u).trace = u.trace ++ es' := by
      rcases finish_cases he with ⟨-, e⟩ | ⟨-, e⟩ <;> simp [e]
    refine ⟨es ++ es', by rw [htrace, h.trace, List.append_assoc], ?_⟩
    rw [finish_port]
    exact h.port_cases.imp_right fun hm => .inl (List.mem_append_left _ hm)
  | @failed es u b h hc =>
    obtain ⟨es', htrace⟩ : ∃ es', (writeFailed b u).trace = u.trace ++ .writeFailed s.addr b :: es' := by
      rcases writeFailed_cases hc with ⟨-, e⟩ | ⟨-, e⟩ <;> simp [e, h.addr]
    exact ⟨es ++ .writeFailed s.addr b :: es', by rw [htrace, h.trace, List.append_assoc],
      .inr (.inr (.inl ⟨b, by simp⟩))⟩
  | reset h =>
    obtain ⟨es', htrace, -⟩ := h.reset_row
    exact ⟨es', htrace, .inr (.inr (.inr (by simp)))⟩

/-- Settles O40: run, rejected or waiting, by the engine's frame. -/
theorem requestFrame : Obligations.RequestFrame := by
  intro s t w h
  rcases exec_decodeRequest_cases h with ⟨hr, -, hres⟩ | ⟨hr, -, rfl⟩ | ⟨hr, rfl⟩
  · obtain ⟨hcfg, haddr, hlines⟩ := hres.frame
    exact ⟨hcfg, haddr, hlines, fun _ hrst => hres.latches hrst, by simp [hr], hres.port_cases⟩
  · exact ⟨rfl, rfl, rfl, fun _ _ => ⟨rfl, rfl, rfl⟩, by simp [hr], [.resp .callerContractViolation], rfl, .inl rfl⟩
  · exact ⟨rfl, rfl, rfl, by simp [hr], fun _ => ⟨rfl, rfl, rfl, rfl⟩, [], by simp, .inl rfl⟩

/-! ## The nibble phase -/

/-- The nibble phase after any stretch of a request's run: unknown after a failed write or reset, else what the
completed writes make of it. -/
theorem EngineResult.nibblePhase {s t : State} (h : EngineResult s t) (hp : s.ph = .busy) (hrst : s.rst = false) :
    ∃ es, t.trace = s.trace ++ es ∧
      ((t.rst = true ∨ ∃ b, .writeFailed s.addr b ∈ es) → t.nph = .unknown) ∧
      (t.rst = false → (∀ b, .writeFailed s.addr b ∉ es) →
        t.nph = s.nph.afterWrites s.port (es.filterMap Event.byte)) := by
  cases h with
  | @working es u h =>
    exact ⟨es, h.trace, by simp [h.rst, hrst, h.not_failed], fun _ _ => h.nph⟩
  | @finished es u h he =>
    have e := finish_busy (h.ph.trans hp)
    refine ⟨es ++ [.resp .ok], by simp [e, h.trace], by simp [h.rst, hrst, h.not_failed], fun _ _ => ?_⟩
    rw [e, bytes_append_of_none es rfl]
    exact h.nph
  | @failed es u b h hc =>
    rcases writeFailed_cases hc with ⟨-, e⟩ | ⟨hu, -⟩
    · refine ⟨es ++ [.writeFailed s.addr b, .resp .busTransactionError], by simp [e, h.trace, h.addr],
        fun _ => by simp, fun _ hno => ?_⟩
      exact absurd (by simp) (hno b)
    · simp [h.ph, hp] at hu
  | reset h =>
    obtain ⟨es', htrace, -⟩ := h.reset_row
    exact ⟨es', htrace, by simp, by simp⟩

/-- Of the ends of PORSEQ, the one in PH_IDLE leaves the phase at a high half (R37). -/
theorem EngineResult.nibblePhase_por {s t : State} (h : EngineResult s t) (hp : s.ph = .por) (ht : t.ph = .idle) :
    t.nph = .high := by
  cases h with
  | working h => simp [h.ph, hp] at ht
  | finished h he =>
    rcases finish_cases he with ⟨hu, -⟩ | ⟨-, e⟩
    · simp [h.ph, hp] at hu
    · rw [e]
  | failed h hc =>
    rcases writeFailed_cases hc with ⟨hu, -⟩ | ⟨-, e⟩
    · simp [h.ph, hp] at hu
    · simp [e] at ht
  | reset h => simp at ht

/-- Settles O19: a request by the engine's run from its acceptance, PORSEQ by its end in PH_IDLE. -/
theorem nibblePhaseFollowsTheWrites : Obligations.NibblePhaseFollowsTheWrites := by
  constructor
  · intro s t w hr h
    obtain ⟨hrst, -⟩ := (reqReady_iff s).mp hr
    rcases exec_decodeRequest_cases h with ⟨-, -, hres⟩ | ⟨-, -, rfl⟩ | ⟨hr', -⟩
    · exact hres.nibblePhase rfl hrst
    · exact ⟨[.resp .callerContractViolation], rfl, by simp [hrst], fun _ _ => rfl⟩
    · simp [hr] at hr'
  · intro s t lines hp h ht
    have hready : s.reqReady ≠ true := fun hready => by simp [((reqReady_iff s).mp hready).2] at hp
    rcases exec_cases h with ⟨_, _, _, hready', -⟩ | ⟨_, _, _, hready', -⟩ | ⟨n, -, rfl⟩ | rfl
    · exact absurd hready' hready
    · exact absurd hready' hready
    · exact (runInputs_result n s.inputs s).nibblePhase_por hp ht
    · simp [hp] at ht

/-! ## The transition table over a step -/

/-- Where nothing runs, reset cuts nothing. -/
theorem assertReset_trace_of_not_running {s : State} (hr : s.running = false) : (assertReset s).trace = s.trace := by
  rw [assertReset_trace, abandon, current_of_not_running hr]

/-- A step where nothing runs and no request is accepted adds no event. -/
theorem takeInput_rows {s : State} (hr : s.running = false) :
    let t := takeInput s
    t.trace = s.trace ∧
      ((s.rst = false ∧ t.rst = true ∧ t.ph = .por ∧ t.upc = 0) ∨
       (s.rst = true ∧ t.rst = false ∧ t.ph = .por ∧ t.upc = 0) ∨ (t.rst = s.rst ∧ t.ph = s.ph)) := by
  rcases takeInput_cases_of_not_running hr with ⟨-, hrst, l, e⟩ | ⟨-, hrst, l, e⟩ | ⟨ins, a, l, v, w, e⟩
  · have htrace := assertReset_trace_of_not_running (s := { s with inputs := l }) hr
    simp only [e, htrace]
    simp [hrst]
  · simp [e, hrst]
  · simp [e]

/-- An offered request in PH_IDLE is what the step runs. -/
theorem step_of_offer {s : State} (hr : s.reqReady = true) (hv : s.reqValid = true) :
    step s = exec (decodeRequest s.req) s := by
  simp [step, fetch, hr, hv]

/-- The rows of R27 that leave PH_IDLE: the offered request is accepted and run for a stretch, or rejected. -/
theorem step_offer_rows {s t : State} (hready : s.reqReady = true) (hv : s.reqValid = true) (h : step s = .next t) :
    ∃ es, t.trace = s.trace ++ es ∧
      ((t.rst = true ∧ t.ph = .por ∧ t.upc = 0 ∧ ∀ e ∈ es, e.isResponse = false) ∨
       (t.rst = false ∧ t.opq = s.req.op ∧ t.blq = s.req.bl ∧ t.argq = s.req.arg ∧
         (s.req.op.toNat ≤ 4 ∧ t.ph = .busy ∧ (∀ e ∈ es, e.isResponse = false) ∨
          s.req.op.toNat ≤ 4 ∧ t.ph = .idle ∧ t.upc = 0 ∧
            (es.getLast? = some (.resp .ok) ∨ es.getLast? = some (.resp .busTransactionError)) ∨
          5 ≤ s.req.op.toNat ∧ t.ph = .idle ∧ es = [.resp .callerContractViolation]))) := by
  obtain ⟨hrst, hp⟩ := (reqReady_iff s).mp hready
  rw [step_of_offer hready hv] at h
  rcases exec_decodeRequest_cases h with ⟨-, hop, hres⟩ | ⟨-, hop, rfl⟩ | ⟨hready', -⟩
  · obtain ⟨es, htrace, hrows⟩ := hres.busy_rows rfl hrst
    refine ⟨es, htrace, ?_⟩
    rcases hrows with hreset | ⟨ht, hbusy⟩ | ⟨ht, hidle⟩
    · exact .inl hreset
    · obtain ⟨hopq, hblq, hargq⟩ := hres.latches ht
      exact .inr ⟨ht, hopq, hblq, hargq, .inl ⟨hop, hbusy⟩⟩
    · obtain ⟨hopq, hblq, hargq⟩ := hres.latches ht
      exact .inr ⟨ht, hopq, hblq, hargq, .inr (.inl ⟨hop, hidle⟩)⟩
  · exact ⟨[.resp .callerContractViolation], rfl, .inr ⟨hrst, rfl, rfl, rfl, .inr (.inr ⟨hop, hp, rfl⟩)⟩⟩
  · simp [hready] at hready'

/-- Settles O50: by the phase, the engine's rows, the acceptance of the offer, or one input. -/
theorem stepChangesThePhaseOnlyAsTheTableSays : Obligations.StepChangesThePhaseOnlyAsTheTableSays := by
  intro s t h
  by_cases hrun : s.running = true
  · have hres := step_result hrun h
    obtain ⟨hrst, hp | hp⟩ := running_cases hrun
    · obtain ⟨es, htrace, hrows⟩ := hres.busy_rows hp hrst
      refine ⟨es, htrace, by simp [hrst], ?_, ?_⟩
      · intro _ ht
        simpa [ht] using hrows
      · intro _ ht
        simpa [ht, hp] using hrows
    · obtain ⟨es, htrace, hno, hrows⟩ := hres.por_rows hp hrst
      refine ⟨es, htrace, by simp [hrst], ?_, ?_⟩
      · intro _ ht
        obtain ⟨hpor, hupc⟩ : t.ph = .por ∧ t.upc = 0 := by simpa [ht] using hrows
        exact ⟨hpor, hupc, hno⟩
      · intro _ ht
        simpa [ht, hp] using And.intro hno hrows
  have hhalt : s.running = false := Bool.eq_false_of_not_eq_true hrun
  by_cases hacc : s.reqReady = true ∧ s.reqValid = true
  · obtain ⟨hready, hv⟩ := hacc
    obtain ⟨hrst, hp⟩ := (reqReady_iff s).mp hready
    obtain ⟨es, htrace, hrows⟩ := step_offer_rows hready hv h
    refine ⟨es, htrace, by simp [hrst], ?_, ?_⟩
    · intro _ ht
      simpa [ht] using hrows
    · intro _ ht
      rcases hrows with ⟨ht', -⟩ | ⟨-, haccepted⟩
      · simp [ht] at ht'
      · exact ⟨by simp [hp], by simp [hp], by simp [hp], by simp [hv], fun _ _ => haccepted⟩
  · rw [step_of_not_running hhalt (by simpa using hacc)] at h
    obtain rfl := Host.Outcome.next.inj h
    obtain ⟨htrace, hrows⟩ := takeInput_rows hhalt
    refine ⟨[], by simpa using htrace, ?_, ?_, ?_⟩
    · intro hrst
      rcases hrows with ⟨hrst', -⟩ | ⟨-, hreleased⟩ | ⟨-, hph⟩
      · simp [hrst] at hrst'
      · exact ⟨rfl, .inr hreleased⟩
      · exact ⟨rfl, .inl hph⟩
    · intro hrst ht
      rcases hrows with ⟨-, -, hpor, hupc⟩ | ⟨hrst', -⟩ | ⟨hsame, -⟩
      · exact ⟨hpor, hupc, by simp⟩
      · simp [hrst] at hrst'
      · simp [ht, hrst] at hsame
    · intro hrst ht
      have hph : (takeInput s).ph = s.ph := by simpa [hrst, ht] using hrows
      rw [hph]
      refine ⟨fun hp => ⟨hp, rfl⟩, fun hp => ?_, fun hp => ?_, fun hp _ => ⟨hp, rfl⟩, fun hp hv => ?_⟩
      · simp [State.running, hrst, hp] at hhalt
      · simp [State.running, hrst, hp] at hhalt
      · exact absurd ⟨(reqReady_iff s).mpr ⟨hrst, hp⟩, hv⟩ hacc

end Sys2Proof.Machine
end

section
/-! PROOF. Where the bus writes go (20_memory.md R50, R58), and what the HD44780 latches of them (R64). -/

namespace Sys2Proof.Machine

/-! ## Where the bus writes go -/

/-- `t` has the trace of `s` and further events, and each write event among these names the device `a`. -/
def WritesOnlyTo (a : DevAddr) (s t : State) : Prop :=
  ∃ es, t.trace = s.trace ++ es ∧ ∀ e ∈ es, ∀ a', e.device = some a' → a' = a

namespace WritesOnlyTo

variable {a : DevAddr} {s t u : State}

theorem of_trace_eq (h : t.trace = s.trace) : WritesOnlyTo a s t := ⟨[], by simp [h], by simp⟩

theorem of_response {r : Response} (h : t.trace = s.trace ++ [.resp r]) : WritesOnlyTo a s t :=
  ⟨_, h, by simp [Event.device]⟩

theorem trans (h : WritesOnlyTo a s t) (h' : WritesOnlyTo a t u) : WritesOnlyTo a s u := by
  obtain ⟨es, he, hes⟩ := h
  obtain ⟨es', he', hes'⟩ := h'
  refine ⟨es ++ es', by rw [he', he, List.append_assoc], fun e hm => ?_⟩
  rcases List.mem_append.mp hm with hm | hm
  · exact hes e hm
  · exact hes' e hm

end WritesOnlyTo

theorem finish_writes {s : State} (he : s.atEnd = true) : WritesOnlyTo s.addr s (finish s) := by
  rcases finish_cases he with ⟨-, e⟩ | ⟨-, e⟩
  · exact .of_response (r := .ok) (by simp [e])
  · exact .of_trace_eq (by simp [e])

theorem onInput_writes (i : Input) (s : State) : WritesOnlyTo s.addr s (onInput i s) := by
  obtain ⟨es, htrace, hes, -⟩ := onInput_trace i s
  exact ⟨es, htrace, fun e he => (hes e he).1⟩

/-- The engine writes to the address it starts with: only the fall of reset changes ADDR, and the engine does not
run while reset is asserted. -/
theorem runInputs_writes (stop : Nat) (ins : List Input) (s : State) :
    WritesOnlyTo s.addr s (runInputs stop ins s) := by
  refine (runInputs_induction (fun u => u.addr = s.addr ∧ WritesOnlyTo s.addr s u) ?skip ?fin ?input stop ins s
    ⟨rfl, .of_trace_eq rfl⟩).2
  case skip => exact fun u ⟨haddr, hu⟩ _ => ⟨haddr, hu⟩
  case fin =>
    intro u ⟨haddr, hu⟩ he
    exact ⟨by simpa using haddr, hu.trans (haddr ▸ finish_writes he)⟩
  case input =>
    intro i rest u ⟨haddr, hu⟩ hr _
    obtain ⟨-, hkeep, -⟩ := onInput_frame i { u with inputs := rest }
    have hinput : WritesOnlyTo u.addr u (onInput i { u with inputs := rest }) :=
      onInput_writes i { u with inputs := rest }
    exact ⟨(hkeep (.inl (running_cases hr).1)).1.trans haddr, hu.trans (haddr ▸ hinput)⟩

/-- Settles O37: a step is a stretch of the engine's run, a rejection, or one input. -/
theorem everyWriteGoesToAddr : Obligations.EveryWriteGoesToAddr := by
  intro s t h
  change WritesOnlyTo s.addr s t
  rcases step_cases h with ⟨op, bl, arg, -, -, rfl⟩ | ⟨op, bl, arg, -, rfl⟩ | ⟨n, -, rfl⟩ | ⟨i, rest, -, -, rfl⟩ | rfl
  · exact runInputs_writes _ _ (acceptRequest op bl arg s)
  · exact .of_response rfl
  · exact runInputs_writes n s.inputs s
  · exact onInput_writes i { s with inputs := rest }
  · exact .of_trace_eq rfl

/-! ## The latch view -/

/-- A strobe pair latches its nibble, whatever PORT held, and leaves the enable line low (R64, R102). -/
theorem latchView_strobe (p : Byte) (n : Nibble) (rs bl : Bit) (ops : List MicroOp) :
    latchView p (writesOf (strobe n rs bl ++ ops)) = .nibble rs n :: latchView (pack n rs bl 0#1) (writesOf ops) := by
  simp [strobe, writesOf, latchView]

/-- A logical byte latches its high and then its low nibble (R64, R104). -/
theorem latchView_xfer (p v : Byte) (rs bl : Bit) :
    latchView p (writesOf (xfer v rs bl)) = [.nibble rs (hiNibble v), .nibble rs (loNibble v)] := by
  rw [xfer, latchView_strobe, ← List.append_nil (strobe (loNibble v) rs bl), latchView_strobe]
  rfl

theorem latchView_progWrinit (p : Byte) (n : Nibble) : latchView p (writesOf (progWrinit n)) = [.nibble 0 n] := by
  rw [progWrinit, ← List.append_nil (strobe n 0 0), latchView_strobe]
  rfl

/-- One write from an enable line that is low latches nothing. -/
theorem latchView_single_of_low {p : Byte} (hp : enableBit p = false) (b : Byte) : latchView p [b] = [] := by
  simp [latchView, latchAt_low hp]

/-- Settles O20: the transfers strobe each nibble, the backlight writes start from a low enable line, DELAY writes
nothing. -/
theorem latchViewOfTheOperations : Obligations.LatchViewOfTheOperations := by
  intro p v n bl cfg t hp
  refine ⟨?_, latchView_xfer p v 1 bl, latchView_progWrinit p n, latchView_single_of_low hp _,
    latchView_single_of_low hp _, rfl⟩
  rw [writesOf_progWrcmd]
  exact latchView_xfer p v 0 bl

end Sys2Proof.Machine
end

section
/-! PROOF. The order of the events (20_memory.md R59): for any inputs the engine performs a beginning of its
micro-program, one micro-operation after the other. -/

namespace Sys2Proof.Machine

/-! ## Where the engine stops and what it waits for -/

theorem owes_iff (stop : Nat) (s : State) : s.owes stop = true ↔ s.running = true ∧ s.upc.toNat < stop := by
  simp [State.owes]

@[simp] theorem settleTo_inputs (stop : Nat) (s : State) : (settleTo stop s).inputs = s.inputs :=
  (congrArg State.inputs (settleTo_with_inputs stop s s.inputs) :)

theorem onInput_inputs (i : Input) (s : State) : (onInput i s).inputs = s.inputs :=
  (congrArg State.inputs (onInput_with_inputs i s s.inputs) :)

/-- The skips leave no zero sleep at UPC below `stop`, given fuel for the rest of the micro-program. -/
theorem skipSleeps_exhausts (stop fuel : Nat) (s : State) (h : s.program.length - s.upc.toNat ≤ fuel) :
    ¬((skipSleeps stop fuel s).upc.toNat < stop ∧ (skipSleeps stop fuel s).current = some (.sleep 0#16)) := by
  induction fuel generalizing s with
  | zero =>
    rintro ⟨-, hc⟩
    have hlt : s.upc.toNat < s.program.length := upc_lt_of_current hc
    omega
  | succ n ih =>
    rw [skipSleeps]
    split
    case isTrue hc =>
      have hu := upc_succ_toNat hc.2
      exact ih _ (by simp only [skipSleep_program, skipSleep_upc, hu]; omega)
    case isFalse hc => exact hc

/-- Where the engine has settled and still owes something, it waits for the answer to a micro-operation. -/
theorem settleTo_waits {stop : Nat} {s : State} (h : (settleTo stop s).owes stop = true) :
    ∃ op, (settleTo stop s).current = some op ∧ op ≠ .sleep 0#16 := by
  obtain ⟨hr, hlt⟩ := (owes_iff _ _).mp h
  obtain ⟨op, hc⟩ := current_of_running hr (settleTo_not_atEnd stop s)
  refine ⟨op, hc, fun h0 => ?_⟩
  subst h0
  simp only [settleTo] at hr hlt hc
  split at hr
  case isTrue he => simp [not_running_finish he] at hr
  case isFalse he =>
    rw [if_neg he] at hlt hc
    exact skipSleeps_exhausts stop _ s (Nat.sub_le _ _) ⟨hlt, hc⟩

theorem skipSleeps_induction_below (P : State → Prop) (stop : Nat)
    (hskip : ∀ u, P u → u.upc.toNat < stop → u.current = some (.sleep 0#16) → P (skipSleep u))
    (fuel : Nat) (s : State) (h : P s) : P (skipSleeps stop fuel s) := by
  induction fuel generalizing s with
  | zero => exact h
  | succ n ih =>
    rw [skipSleeps]
    split
    case isTrue hc => exact ih _ (hskip s h hc.1 hc.2)
    case isFalse => exact h

/-- The engine's induction with everything a move can rely on: a zero sleep is skipped below `stop` only, and an
input, the next of the state's own, is taken only by a micro-operation below `stop` that waits for one. -/
theorem runTo_induction (P : State → Prop) (stop : Nat)
    (hskip : ∀ u, P u → u.upc.toNat < stop → u.current = some (.sleep 0#16) → P (skipSleep u))
    (hfin : ∀ u, P u → u.atEnd = true → P (finish u))
    (hin : ∀ i rest op u, P u → u.inputs = i :: rest → u.upc.toNat < stop → u.current = some op →
      op ≠ .sleep 0#16 → P (onInput i { u with inputs := rest }))
    (s : State) (h : P s) : P (runTo stop s) := by
  have settle : ∀ u, P u → P (settleTo stop u) := by
    intro u hu
    have hu' := skipSleeps_induction_below P stop hskip u.program.length u hu
    simp only [settleTo]
    split
    case isTrue he => exact hfin _ hu' he
    case isFalse => exact hu'
  have run : ∀ ins u, u.inputs = ins → P u → P (runInputs stop ins u) := by
    intro ins
    induction ins with
    | nil => exact fun u _ hu => settle u hu
    | cons i rest ih =>
      intro u hi hu
      simp only [runInputs]
      split
      case isTrue ho =>
        obtain ⟨op, hc, h0⟩ := settleTo_waits ho
        exact ih _ (onInput_inputs i _)
          (hin i rest op _ (settle u hu) (by simpa using hi) ((owes_iff _ _).mp ho).2 hc h0)
      case isFalse => exact settle u hu
  exact run s.inputs s rfl h

/-- Where the engine has stopped and still owes something, it waits for an input that has not come. -/
theorem runTo_waits {stop : Nat} {s : State} (h : (runTo stop s).owes stop = true) :
    (runTo stop s).inputs = [] ∧ ∃ op, (runTo stop s).current = some op ∧ op ≠ .sleep 0#16 := by
  have run : ∀ ins u, u.inputs = ins → (runInputs stop ins u).owes stop = true →
      (runInputs stop ins u).inputs = [] ∧ ∃ op, (runInputs stop ins u).current = some op ∧ op ≠ .sleep 0#16 := by
    intro ins
    induction ins with
    | nil => exact fun u hi ho => ⟨(settleTo_inputs stop u).trans hi, settleTo_waits ho⟩
    | cons i rest ih =>
      intro u _ ho
      simp only [runInputs] at ho ⊢
      split at ho
      case isTrue hmore =>
        rw [if_pos hmore]
        exact ih _ (onInput_inputs i _) ho
      case isFalse hmore => exact absurd ho hmore
  exact run s.inputs s rfl h

/-! ## The order of the events (R59) -/

theorem Working.program {s u : State} {es : List Event} (h : Working s es u) : u.program = s.program := by
  simp only [State.program, h.ph, h.cfg, h.opq, h.blq, h.argq, h.linesq]

theorem Working.running {s u : State} {es : List Event} (h : Working s es u) : u.running = s.running := by
  simp only [State.running, h.rst, h.ph]

theorem Working.skipSleep {s u : State} {es : List Event} (h : Working s es u) : Working s es (skipSleep u) :=
  h.with_ports _ _ _ _ _ _

/-- From `s` the engine has come to `u` by performing `done`, a beginning of `prog`, without a failure; it owes
`left`. -/
structure Performed (prog : List MicroOp) (s : State) (done left : List MicroOp) (u : State) : Prop where
  working : Working s (eventsOf s.addr done) u
  split : prog = done ++ left
  upc : u.upc.toNat = s.upc.toNat + done.length

/-- What the engine, run to the end of `prog`, answers: it has performed a beginning of `prog`, and then perhaps the
whole micro-program has ended, the next write has failed, or reset has cut what was waited for. -/
inductive RunResult (prog : List MicroOp) (s : State) : State → Prop where
  | performed {done left : List MicroOp} {u : State} (h : Performed prog s done left u) : RunResult prog s u
  | finished {u : State} (h : Performed prog s prog [] u) (he : u.atEnd = true) : RunResult prog s (finish u)
  | failed {done more : List MicroOp} {b : Byte} {u : State} (h : Performed prog s done (.write b :: more) u)
      (hc : u.current = some (.write b)) : RunResult prog s (writeFailed b u)
  | reset {done more : List MicroOp} {op : MicroOp} {u : State} (h : Performed prog s done (op :: more) u)
      (hc : u.current = some op) (h0 : op ≠ .sleep 0#16) : RunResult prog s (assertReset u)

namespace Performed

variable {prog done left : List MicroOp} {s u : State}

theorem start (prog : List MicroOp) (s : State) : Performed prog s [] prog s := ⟨.refl s, rfl, rfl⟩

/-- Where `prog` stands in the micro-program, what is owed first is the micro-operation at UPC. -/
theorem head_left (h : Performed prog s done left u) (hprog : prog <+: s.program.drop s.upc.toNat)
    (hlt : u.upc.toNat < s.upc.toNat + prog.length) {op : MicroOp} (hc : u.current = some op) :
    ∃ more, left = op :: more := by
  obtain ⟨tail, htail⟩ := hprog
  have hget : s.program[s.upc.toNat + done.length]? = some op := by
    rw [← h.working.program, ← h.upc]
    exact (current_some hc).2
  have hlen : done.length < prog.length := by have := h.upc; omega
  rw [← List.getElem?_drop, ← htail, h.split] at hget
  cases left with
  | nil => simp [h.split] at hlen
  | cons op' more => exact ⟨more, by simpa using hget⟩

theorem next {op : MicroOp} {more : List MicroOp} (h : Performed prog s done (op :: more) u)
    (hc : u.current = some op) {v : State} (hw : Working s (eventsOf s.addr (done ++ [op])) v)
    (hv : v.upc = u.upc + 1#5) : Performed prog s (done ++ [op]) more v := by
  refine ⟨hw, by simp [h.split], ?_⟩
  rw [hv, upc_succ_toNat hc, h.upc, List.length_append]
  rfl

/-- At the end of the whole micro-program nothing of `prog` is left. -/
theorem eq_of_atEnd (h : Performed prog s done left u) (hprog : prog <+: s.program.drop s.upc.toNat)
    (he : u.atEnd = true) : done = prog ∧ left = [] := by
  have hend : s.program.length ≤ s.upc.toNat + done.length := by
    rw [← h.working.program, ← h.upc]
    exact (atEnd_cases he).2
  have hle := hprog.length_le
  rw [List.length_drop] at hle
  have hlen := congrArg List.length h.split
  rw [List.length_append] at hlen
  have hnil : left = [] := List.eq_nil_of_length_eq_zero (by omega)
  exact ⟨by simp [h.split, hnil], hnil⟩

/-- Where something of `prog` is left, UPC is below its end. -/
theorem upc_lt_or_left_nil (h : Performed prog s done left u) :
    u.upc.toNat < s.upc.toNat + prog.length ∨ left = [] := by
  have hupc := h.upc
  cases left with
  | nil => exact .inr rfl
  | cons op more => exact .inl (by simp [h.split, hupc])

theorem with_inputs (h : Performed prog s done left u) (ins : List Input) :
    Performed prog s done left { u with inputs := ins } :=
  ⟨h.working.with_ports _ ins _ _ _ _, h.split, h.upc⟩

theorem onInput {op : MicroOp} {more : List MicroOp} (h : Performed prog s done (op :: more) u)
    (hc : u.current = some op) (h0 : op ≠ .sleep 0#16) (i : Input) : RunResult prog s (onInput i u) := by
  rcases onInput_cases i u with ⟨-, -, e⟩ | ⟨-, hrst, -⟩ | ⟨b, -, hb, e⟩ | ⟨b, -, hb, e⟩ | ⟨t, -, ht, hb, e⟩ |
    ⟨a, l, v, w, e⟩
  · rw [e]; exact .reset h hc h0
  · simp [(running_cases (current_some hc).1).1] at hrst
  · obtain rfl : op = .write b := Option.some.inj (hc.symm.trans hb)
    rw [e]
    refine .performed (h.next hc ?_ rfl)
    rw [eventsOf_append]
    exact h.working.writeSucceeded b
  · obtain rfl : op = .write b := Option.some.inj (hc.symm.trans hb)
    rw [e]; exact .failed h hc
  · obtain rfl : op = .sleep t := Option.some.inj (hc.symm.trans hb)
    rw [e]
    refine .performed (h.next hc ?_ rfl)
    rw [eventsOf_append, eventsOf, if_neg ht]
    exact h.working.sleepEnded t
  · rw [e]; exact .performed ⟨h.working.with_ports _ _ a l v w, h.split, h.upc⟩

end Performed

theorem RunResult.performed_of_running {prog : List MicroOp} {s u : State} (h : RunResult prog s u)
    (hr : u.running = true) : ∃ done left, Performed prog s done left u := by
  cases h with
  | performed h => exact ⟨_, _, h⟩
  | finished h he => simp [not_running_finish he] at hr
  | failed h hc => simp [not_running_writeFailed hc] at hr
  | reset h hc h0 => simp [not_running_of_rst (assertReset_rst _)] at hr

/-- The engine performs the micro-operations that stand next in its micro-program one after the other, for any
inputs. -/
theorem runTo_runResult {prog : List MicroOp} {s : State} (hprog : prog <+: s.program.drop s.upc.toNat) :
    RunResult prog s (runTo (s.upc.toNat + prog.length) s) := by
  refine runTo_induction (RunResult prog s) _ ?skip ?fin ?input s (.performed (.start prog s))
  case skip =>
    intro u hu hlt hc
    obtain ⟨done, left, h⟩ := hu.performed_of_running (current_some hc).1
    obtain ⟨more, rfl⟩ := h.head_left hprog hlt hc
    refine .performed (h.next hc ?_ rfl)
    rw [eventsOf_append, show eventsOf s.addr [.sleep 0#16] = [] from rfl, List.append_nil]
    exact h.working.skipSleep
  case fin =>
    intro u hu he
    obtain ⟨done, left, h⟩ := hu.performed_of_running (atEnd_cases he).1
    obtain ⟨rfl, rfl⟩ := h.eq_of_atEnd hprog he
    exact .finished h he
  case input =>
    intro i rest op u hu _ hlt hc h0
    obtain ⟨done, left, h⟩ := hu.performed_of_running (current_some hc).1
    obtain ⟨more, rfl⟩ := h.head_left hprog hlt hc
    exact (h.with_inputs rest).onInput hc h0 i

/-- What reset leaves of the micro-operation it cuts. -/
theorem assertReset_trace_of_waiting {s : State} {op : MicroOp} (hc : s.current = some op) (h0 : op ≠ .sleep 0#16) :
    (assertReset s).trace = s.trace ++ cutByReset s.addr op := by
  cases op with
  | write b => simp [abandon, hc, cutByReset]
  | sleep t => simp [abandon, hc, cutByReset, show t ≠ 0#16 from fun ht => h0 (by rw [ht])]

/-- Where the engine has stopped before the end of `prog`, it waits for the answer to the first of what is left. -/
theorem Performed.waits {prog done left : List MicroOp} {s : State}
    (h : Performed prog s done left (runTo (s.upc.toNat + prog.length) s))
    (hprog : prog <+: s.program.drop s.upc.toNat) (hr : s.running = true) (hleft : left ≠ []) :
    left.head? ≠ some (.sleep 0#16) := by
  have hlt := h.upc_lt_or_left_nil.resolve_right hleft
  obtain ⟨-, op, hc, h0⟩ := runTo_waits ((owes_iff _ _).mpr ⟨h.working.running.trans hr, hlt⟩)
  obtain ⟨more, rfl⟩ := h.head_left hprog hlt hc
  simpa using h0

/-- The events of the engine's run to the end of `prog`, for any inputs: those of a beginning of `prog`, in order, and
then what ends them. -/
theorem runTo_events {prog : List MicroOp} {s t : State} (hr : s.running = true)
    (hprog : prog <+: s.program.drop s.upc.toNat) (ht : runTo (s.upc.toNat + prog.length) s = t) :
    ∃ done left tail, prog = done ++ left ∧ t.trace = s.trace ++ eventsOf s.addr done ++ tail ∧
      ((t.rst = false ∧ t.ph = s.ph ∧ t.upc.toNat = s.upc.toNat + done.length ∧
          left ≠ [] ∧ left.head? ≠ some (.sleep 0) ∧ tail = []) ∨
       (t.rst = false ∧ t.ph = s.ph ∧ s.upc.toNat + prog.length < s.program.length ∧ left = [] ∧ tail = []) ∨
       (t.rst = false ∧ t.ph = .idle ∧ s.program.length ≤ s.upc.toNat + prog.length ∧ left = [] ∧
          tail = if s.ph = .busy then [.resp .ok] else []) ∨
       (t.rst = false ∧ ∃ b more, left = .write b :: more ∧
          (s.ph = .busy ∧ t.ph = .idle ∧ tail = [.writeFailed s.addr b, .resp .busTransactionError] ∨
           s.ph = .por ∧ t.ph = .fail ∧ tail = [.writeFailed s.addr b])) ∨
       (t.rst = true ∧ t.ph = .por ∧ left.head? ≠ some (.sleep 0) ∧
          ∃ m more, left = m :: more ∧ tail = cutByReset s.addr m)) := by
  obtain ⟨hrst, hph⟩ := running_cases hr
  have hend : t.atEnd = false := ht ▸ runInputs_not_atEnd _ _ _
  have hres : RunResult prog s t := ht ▸ runTo_runResult hprog
  cases hres with
  | @performed done left _ h =>
    have htrace : t.trace = s.trace ++ eventsOf s.addr done ++ [] := by simp [h.working.trace]
    refine ⟨done, left, [], h.split, htrace, ?_⟩
    by_cases hleft : left = []
    · subst hleft
      have hlt : s.upc.toNat + done.length < s.program.length := by
        have hrun := h.working.running.trans hr
        rw [← h.upc, ← h.working.program]
        simpa [State.atEnd, hrun] using hend
      exact .inr (.inl ⟨h.working.rst.trans hrst, h.working.ph, by simpa [h.split] using hlt, rfl, rfl⟩)
    · subst ht
      exact .inl ⟨h.working.rst.trans hrst, h.working.ph, h.upc, hleft, h.waits hprog hr hleft, rfl⟩
  | @finished u h he =>
    have hlen : s.program.length ≤ s.upc.toNat + prog.length := by
      rw [← h.upc, ← h.working.program]
      exact (atEnd_cases he).2
    have hrst' : (finish u).rst = false := by simp [h.working.rst, hrst]
    rcases finish_cases he with ⟨hu, e⟩ | ⟨hu, e⟩
    · exact ⟨prog, [], [.resp .ok], h.split, by simp [e, h.working.trace], .inr (.inr (.inl
        ⟨hrst', by simp [e], hlen, rfl, by simp [← h.working.ph, hu]⟩))⟩
    · exact ⟨prog, [], [], h.split, by simp [e, h.working.trace], .inr (.inr (.inl
        ⟨hrst', by simp [e], hlen, rfl, by simp [← h.working.ph, hu]⟩))⟩
  | @failed done more b u h hc =>
    have hrst' : (writeFailed b u).rst = false := by simp [h.working.rst, hrst]
    have hu := h.working.ph
    rcases writeFailed_cases hc with ⟨hp, e⟩ | ⟨hp, e⟩
    · exact ⟨done, _, [.writeFailed s.addr b, .resp .busTransactionError], h.split,
        by simp [e, h.working.trace, h.working.addr],
        .inr (.inr (.inr (.inl ⟨hrst', b, more, rfl, .inl ⟨hu.symm.trans hp, by rw [e], rfl⟩⟩)))⟩
    · exact ⟨done, _, [.writeFailed s.addr b], h.split, by simp [e, h.working.trace, h.working.addr],
        .inr (.inr (.inr (.inl ⟨hrst', b, more, rfl, .inr ⟨hu.symm.trans hp, by rw [e], rfl⟩⟩)))⟩
  | @reset done more op u h hc h0 =>
    refine ⟨done, op :: more, cutByReset s.addr op, h.split, ?_, .inr (.inr (.inr (.inr
      ⟨by simp, by simp, by simpa using h0, op, more, rfl, rfl⟩)))⟩
    rw [assertReset_trace_of_waiting hc h0, h.working.trace, h.working.addr]

/-- A reserved code has no micro-program (R78, R84). -/
theorem requestProgram_reserved (c : Config) {op : BitVec 3} (hop : 5 ≤ op.toNat) (bl : Bit) (arg : Arg) :
    requestProgram c op bl arg = [] := by
  unfold requestProgram
  split
  case h_6 => rfl
  all_goals omega

/-- Settles O48: an accepted request is run from its first micro-operation to its end, a reserved one has no
micro-program. -/
theorem requestEventsFollowTheMicroProgram : Obligations.RequestEventsFollowTheMicroProgram := by
  intro s t w hr h
  obtain ⟨hrst, hp⟩ := (reqReady_iff s).mp hr
  rw [exec_decodeRequest] at h
  have ht := Host.Outcome.next.inj h
  by_cases hop : w.op.toNat ≤ 4
  · rw [if_pos hop, runRequest, if_pos hr] at ht
    have hrun : (acceptRequest w.op w.bl w.arg s).running = true := by simp [State.running, hrst]
    obtain ⟨done, left, tail, hsplit, htrace, hend⟩ := runTo_events
      (prog := (acceptRequest w.op w.bl w.arg s).program) hrun (by simp) (by simpa [resume] using ht)
    refine ⟨done, left, tail, hsplit, htrace, ?_⟩
    rcases hend with ⟨hrst', hph, hupc, hleft⟩ | ⟨-, -, hlt, -⟩ | ⟨hrst', hph, -, hleft, htail⟩ |
      ⟨hrst', b, more, hleft, ⟨-, hph, htail⟩ | ⟨hpor, -⟩⟩ | hreset
    · exact .inl ⟨hrst', hph, by simpa using hupc, hleft⟩
    · simp at hlt
    · exact .inr (.inl ⟨hrst', hph, hop, hleft, htail⟩)
    · exact .inr (.inr (.inl ⟨hrst', hph, b, more, hleft, htail⟩))
    · simp at hpor
    · exact .inr (.inr (.inr (.inr hreset)))
  · rw [if_neg hop, rejectRequest, if_pos hr] at ht
    have hop' : 5 ≤ w.op.toNat := by omega
    subst ht
    exact ⟨[], [], [.resp .callerContractViolation], requestProgram_reserved s.cfg hop' w.bl w.arg,
      by simp [eventsOf], .inr (.inr (.inr (.inl ⟨hrst, hp, hop', rfl, rfl⟩)))⟩

/-! ## The operations of the sequencer -/

/-- UPC is at a WRINIT of this nibble (R77, R146). -/
def AtWrinit (s : State) (n : Nibble) : Prop :=
  (s.upc = 1 ∨ s.upc = 4 ∨ s.upc = 7) ∧ n = NIB_RESET ∨ s.upc = 10 ∧ n = s.cfg.nib4bit

theorem AtWrinit.upc_toNat {s : State} {n : Nibble} (h : AtWrinit s n) :
    s.upc.toNat = 1 ∨ s.upc.toNat = 4 ∨ s.upc.toNat = 7 ∨ s.upc.toNat = 10 := by
  rcases h with ⟨hu | hu | hu, -⟩ | ⟨hu, -⟩ <;> simp [hu]

theorem progPorseq_length_ge (c : Config) (l : BitVec 3) : 17 ≤ (progPorseq c l).length := by
  simp [progPorseq, progWrinit, progWrcmd, xfer, strobe]

/-- The strobe pair stands at UPC in PORSEQ, which goes on after it. -/
theorem AtWrinit.program {s : State} {n : Nibble} (h : AtWrinit s n) (hp : s.ph = .por) :
    progWrinit n <+: s.program.drop s.upc.toNat ∧ s.upc.toNat + (progWrinit n).length < s.program.length := by
  have hprog : s.program = progPorseq s.cfg s.linesq := by simp [State.program, hp]
  rw [hprog]
  constructor
  · rcases h with ⟨hu | hu | hu, rfl⟩ | ⟨hu, rfl⟩ <;> rw [hu] <;> exact ⟨_, rfl⟩
  · have hlen := progPorseq_length_ge s.cfg s.linesq
    have htwo : (progWrinit n).length = 2 := rfl
    have := h.upc_toNat
    omega

/-- What the sequencer issues in PH_POR: PORSEQ at UPC 0, or a WRINIT where UPC is at one. -/
theorem sequencerIssues_cases {s : State} {i : Instr} (h : sequencerIssues s = some i) :
    (s.upc = 0 ∧ i = .porseq s.linesq) ∨ ∃ n, AtWrinit s n ∧ i = .wrinit n := by
  have hupc : ∀ k : BitVec 5, s.upc.toNat = k.toNat → s.upc = k := fun k => BitVec.eq_of_toNat_eq
  unfold sequencerIssues at h
  split at h
  case isFalse => simp at h
  case isTrue =>
    split at h
    case h_1 hu => exact .inl ⟨hupc 0 hu, (Option.some.inj h).symm⟩
    case h_2 hu => exact .inr ⟨_, .inl ⟨.inl (hupc 1 hu), rfl⟩, (Option.some.inj h).symm⟩
    case h_3 hu => exact .inr ⟨_, .inl ⟨.inr (.inl (hupc 4 hu)), rfl⟩, (Option.some.inj h).symm⟩
    case h_4 hu => exact .inr ⟨_, .inl ⟨.inr (.inr (hupc 7 hu)), rfl⟩, (Option.some.inj h).symm⟩
    case h_5 hu => exact .inr ⟨_, .inr ⟨hupc 10 hu, rfl⟩, (Option.some.inj h).symm⟩
    case h_6 => simp at h

section
variable {s : State} (hrst : s.rst = false) (hp : s.ph = .por)
include hrst hp

theorem running_of_por : s.running = true := by simp [State.running, hrst, hp]

/-- PORSEQ at UPC 0 is the engine's run to the end of the micro-program. -/
theorem exec_porseq (hu : s.upc = 0) : exec (.porseq s.linesq) s = .next (resume s) := by
  have hissue : sequencerIssues s = some (.porseq s.linesq) := by
    simp [sequencerIssues, running_of_por hrst hp, hp, hu]
  have hlen : s.upc.toNat + (progPorseq s.cfg s.linesq).length = s.program.length := by
    simp [State.program, hp, hu]
  rw [exec, execPorseq, runInternal, if_pos hissue, hlen, resume]

/-- A WRINIT is the engine's run over its strobe pair. -/
theorem exec_wrinit {n : Nibble} (h : AtWrinit s n) :
    exec (.wrinit n) s = .next (runTo (s.upc.toNat + (progWrinit n).length) s) := by
  have hissue : sequencerIssues s = some (.wrinit n) := by
    rcases h with ⟨hu | hu | hu, rfl⟩ | ⟨hu, rfl⟩ <;> simp [sequencerIssues, running_of_por hrst hp, hp, hu]
  rw [exec, execWrinit, runInternal, if_pos hissue]

/-- A step in PH_POR is the engine's run over a WRINIT, or to the end of PORSEQ. -/
theorem step_por_cases :
    step s = .next (resume s) ∨
    ∃ n, AtWrinit s n ∧ step s = .next (runTo (s.upc.toNat + (progWrinit n).length) s) := by
  have hfetch : fetch s = sequencerIssues s := by simp [fetch, State.reqReady, hp]
  rcases hi : sequencerIssues s with _ | i
  · exact .inl (by simp [step, hfetch, hi, idleStep, running_of_por hrst hp])
  · have hstep : step s = exec i s := by simp [step, hfetch, hi]
    rcases sequencerIssues_cases hi with ⟨hu, rfl⟩ | ⟨n, h, rfl⟩
    · exact .inl (hstep.trans (exec_porseq hrst hp hu))
    · exact .inr ⟨n, h, hstep.trans (exec_wrinit hrst hp h)⟩

end

/-- Settles O49: PORSEQ is run to its end, a WRINIT over its strobe pair, inside PORSEQ. -/
theorem sequencerEventsFollowTheMicroProgram : Obligations.SequencerEventsFollowTheMicroProgram := by
  intro s t i prog after hrst hp hi h
  have hissued : (i = .porseq s.linesq ∧ s.upc = 0 ∧ prog = progPorseq s.cfg s.linesq ∧ after = .idle) ∨
      ∃ n, AtWrinit s n ∧ i = .wrinit n ∧ prog = progWrinit n ∧ after = .por := by
    rcases hi with hporseq | ⟨hi, hu, hwrinit⟩ | ⟨hi, hu, hwrinit⟩
    · exact .inl hporseq
    · exact .inr ⟨_, .inl ⟨hu, rfl⟩, hi, hwrinit⟩
    · exact .inr ⟨_, .inr ⟨hu, rfl⟩, hi, hwrinit⟩
  have hkind : prog <+: s.program.drop s.upc.toNat ∧ exec i s = .next (runTo (s.upc.toNat + prog.length) s) ∧
      (after = .idle ∧ s.upc.toNat + prog.length = s.program.length ∨
       after = .por ∧ s.upc.toNat + prog.length < s.program.length) := by
    rcases hissued with ⟨rfl, hu, rfl, rfl⟩ | ⟨n, hn, rfl, rfl, rfl⟩
    · have hprog : s.program = progPorseq s.cfg s.linesq := by simp [State.program, hp]
      rw [exec_porseq hrst hp hu, resume, hprog, hu]
      simp
    · obtain ⟨hprefix, hlt⟩ := hn.program hp
      exact ⟨hprefix, exec_wrinit hrst hp hn, .inr ⟨rfl, hlt⟩⟩
  obtain ⟨hprefix, hexec, hafter⟩ := hkind
  obtain ⟨done, left, tail, hsplit, htrace, hend⟩ := runTo_events (running_of_por hrst hp) hprefix
    (Host.Outcome.next.inj (hexec.symm.trans h))
  refine ⟨done, left, tail, hsplit, htrace, ?_⟩
  rcases hend with ⟨hrst', hph, hwait⟩ | ⟨hrst', hph, hlt, hdone⟩ | ⟨hrst', hph, hle, hleft, htail⟩ |
    ⟨hrst', b, more, hleft, ⟨hbusy, -⟩ | ⟨-, hph, htail⟩⟩ | hreset
  · exact .inl ⟨hrst', hph.trans hp, hwait⟩
  · obtain ⟨rfl, -⟩ := hafter.resolve_left fun hidle => by omega
    exact .inr (.inl ⟨hrst', hph.trans hp, hdone⟩)
  · obtain ⟨rfl, -⟩ := hafter.resolve_right fun hpor => by omega
    exact .inr (.inl ⟨hrst', hph, hleft, by simpa [hp] using htail⟩)
  · simp [hp] at hbusy
  · exact .inr (.inr (.inl ⟨hrst', hph, b, more, hleft, htail⟩))
  · exact .inr (.inr (.inr hreset))

end Sys2Proof.Machine
end

section
/-! PROOF. It does not matter when the answers come (20_memory.md R59, 30_encoding.md R85): an operation cut anywhere
and resumed ends where it ends with all its inputs at once. -/

namespace Sys2Proof.Machine

/-! ## The engine resumed -/

/-- The state with inputs that come after those it has. -/
def State.withMore (ys : List Input) (s : State) : State := { s with inputs := s.inputs ++ ys }

theorem finish_withMore (ys : List Input) (s : State) : finish (s.withMore ys) = (finish s).withMore ys :=
  (finish_with_inputs s _).trans (by rw [State.withMore, finish_inputs])

theorem onInput_withMore (i : Input) (rest ys : List Input) (s : State) :
    onInput i { s with inputs := rest ++ ys } = (onInput i { s with inputs := rest }).withMore ys :=
  (onInput_with_inputs i { s with inputs := rest } (rest ++ ys)).trans (by rw [State.withMore, onInput_inputs])

theorem runTo_withMore_halted {s : State} (hr : s.running = false) (stop : Nat) (ys : List Input) :
    runTo stop (s.withMore ys) = s.withMore ys :=
  runInputs_halted (s := s.withMore ys) hr stop _

/-- The engine run to `n`, and from there to a later `stop` on the inputs that had not come, ends where it ends with
all inputs at once. -/
theorem runTo_resumes {n stop : Nat} (hle : n ≤ stop) (ys : List Input) (s : State) :
    runTo stop ((runTo n s).withMore ys) = runTo stop (s.withMore ys) := by
  refine runTo_induction (fun u => runTo stop (u.withMore ys) = runTo stop (s.withMore ys)) n ?skip ?fin ?input s rfl
  case skip =>
    intro u hu hlt hc
    exact (runInputs_skip (s := u.withMore ys) hc (by exact hlt.trans_le hle) _).symm.trans hu
  case fin =>
    intro u hu he
    calc runTo stop ((finish u).withMore ys)
        = (finish u).withMore ys := runTo_withMore_halted (not_running_finish he) stop ys
      _ = finish (u.withMore ys) := (finish_withMore ys u).symm
      _ = runTo stop (u.withMore ys) := (runInputs_atEnd (s := u.withMore ys) he stop _).symm
      _ = runTo stop (s.withMore ys) := hu
  case input =>
    intro i rest op u hu hi hlt hc h0
    calc runTo stop ((onInput i { u with inputs := rest }).withMore ys)
        = runInputs stop (rest ++ ys) (onInput i { u with inputs := rest ++ ys }) := by
          rw [← onInput_withMore, runTo, onInput_inputs]
      _ = runInputs stop (i :: (rest ++ ys)) (u.withMore ys) :=
          (runInputs_waiting (s := u.withMore ys) hc h0 (by exact hlt.trans_le hle) i (rest ++ ys)).symm
      _ = runTo stop (u.withMore ys) := by rw [runTo, State.withMore, hi]; rfl
      _ = runTo stop (s.withMore ys) := hu

/-- A result in another phase does not run. -/
theorem EngineResult.not_running_of_ph_ne {s t : State} (h : EngineResult s t) (hp : t.ph ≠ s.ph) :
    t.running = false := by
  by_contra hr
  obtain ⟨es, hw⟩ := h.working_of_running (by simpa using hr)
  exact hp hw.ph

/-! ## A request -/

/-- While a request runs, the step goes on with it. -/
theorem step_of_busy {s : State} (hrst : s.rst = false) (hp : s.ph = .busy) : step s = .next (resume s) := by
  have hnone : fetch s = none := by simp [fetch, State.reqReady, sequencerIssues, hp]
  simp [step, hnone, idleStep, State.running, hrst, hp]

/-- A request operation is run or rejected, by its operation code alone (R71, R78). -/
theorem exec_requestable {i : Instr} (hi : i.requestable = true) :
    ∃ (op : BitVec 3) (bl : Bit) (arg : Arg), ∀ s, exec i s =
      .next (if op.toNat ≤ 4 then runRequest op bl arg s else rejectRequest op bl arg s) := by
  cases i with
  | wrcmd bl ign c => exact ⟨0, bl, ign ++ c, fun _ => rfl⟩
  | wrdata bl ign d => exact ⟨1, bl, ign ++ d, fun _ => rfl⟩
  | blon bl arg => exact ⟨2, bl, arg, fun _ => rfl⟩
  | bloff bl arg => exact ⟨3, bl, arg, fun _ => rfl⟩
  | delay bl t => exact ⟨4, bl, t, fun _ => rfl⟩
  | rsvd5 bl arg => exact ⟨5, bl, arg, fun _ => rfl⟩
  | rsvd6 bl arg => exact ⟨6, bl, arg, fun _ => rfl⟩
  | rsvd7 bl arg => exact ⟨7, bl, arg, fun _ => rfl⟩
  | wrinit n => simp [Instr.requestable] at hi
  | porseq lines => simp [Instr.requestable] at hi

/-- A busy state in which reset is asserted is not among the engine's results. -/
theorem EngineResult.rst_of_busy {s t : State} (h : EngineResult s t) (hrst : s.rst = false) (hp : t.ph = .busy) :
    t.rst = false := by
  cases h with
  | working h => exact h.rst.trans hrst
  | finished h he => simp [h.rst, hrst]
  | failed h hc => simp [h.rst, hrst]
  | reset h => simp at hp

/-- An accepted request that is left running is resumed by the next step; one that has ended leaves further inputs. -/
theorem resume_accept_withMore {s : State} (hrst : s.rst = false) (op : BitVec 3) (bl : Bit) (arg : Arg)
    (ys : List Input) :
    let t := resume (acceptRequest op bl arg s)
    .next (resume (acceptRequest op bl arg (s.withMore ys))) =
      if t.ph = .busy then step (t.withMore ys) else .next (t.withMore ys) := by
  intro t
  have hres : EngineResult (acceptRequest op bl arg s) t := resume_accept_result op bl arg s
  have hwhole : resume (acceptRequest op bl arg (s.withMore ys)) =
      runTo (acceptRequest op bl arg s).program.length (t.withMore ys) :=
    (runTo_resumes (Nat.le_refl _) ys (acceptRequest op bl arg s)).symm
  rw [hwhole]
  split
  case isTrue hp =>
    have ht : t.rst = false := hres.rst_of_busy hrst hp
    obtain ⟨es, hw⟩ := hres.working_of_running (by simp [State.running, ht, hp])
    rw [step_of_busy (s := t.withMore ys) ht hp, ← hw.program]
    rfl
  case isFalse hp =>
    rw [runTo_withMore_halted (hres.not_running_of_ph_ne hp)]

@[simp] theorem reqReady_withMore (ys : List Input) (s : State) : (s.withMore ys).reqReady = s.reqReady := rfl

/-- Settles O45: an accepted request is resumed on the inputs that had not come; a rejected one and one that waits
take no input. -/
theorem requestMayBeSuspendedAnywhere : Obligations.RequestMayBeSuspendedAnywhere := by
  intro s t i ys hi h
  change exec i (s.withMore ys) =
    if s.reqReady = true ∧ t.ph = .busy then step (t.withMore ys) else .next (t.withMore ys)
  obtain ⟨op, bl, arg, hexec⟩ := exec_requestable hi
  rw [hexec] at h ⊢
  obtain rfl := Host.Outcome.next.inj h
  by_cases hr : s.reqReady = true
  · obtain ⟨hrst, hp⟩ := (reqReady_iff s).mp hr
    by_cases hop : op.toNat ≤ 4
    · simpa [hop, runRequest, hr] using resume_accept_withMore hrst op bl arg ys
    · have hmore : respond .callerContractViolation (latchRequest op bl arg (s.withMore ys)) =
          (respond .callerContractViolation (latchRequest op bl arg s)).withMore ys := rfl
      simp [hop, rejectRequest, hr, hp, hmore]
  · simp [runRequest, rejectRequest, hr]

/-! ## PORSEQ -/

/-- Run to `n` and from there to a later `stop`, the engine ends where it ends when run to `stop` at once. -/
theorem runTo_runTo {n stop : Nat} (hle : n ≤ stop) (s : State) : runTo stop (runTo n s) = runTo stop s := by
  simpa [State.withMore] using runTo_resumes hle [] s

/-- Where the engine has stopped before `n`, a later stop makes no difference. -/
theorem runTo_eq_of_waiting {n : Nat} {s : State} (h : (runTo n s).owes n = true) (stop : Nat) :
    runTo stop (runTo n s) = runTo n s := by
  obtain ⟨hi, op, hc, h0⟩ := runTo_waits h
  rw [runTo, hi]
  exact settleTo_waiting hc h0 stop

/-- From any place in PORSEQ one step, or two, run the engine to where it ends on the inputs at hand: a WRINIT that
makes its pair leaves UPC where the next step runs the rest. -/
theorem step_por_resumes {s : State} (hrst : s.rst = false) (hp : s.ph = .por) :
    step s = .next (resume s) ∨ ∃ u, step s = .next u ∧ step u = .next (resume s) := by
  rcases step_por_cases hrst hp with h | ⟨n, hn, h⟩
  · exact .inl h
  obtain ⟨hprefix, hlt⟩ := hn.program hp
  have hresume := runTo_runTo hlt.le s
  have hres : RunResult (progWrinit n) s _ := runTo_runResult hprefix
  generalize hu : runTo (s.upc.toNat + (progWrinit n).length) s = u at h hresume hres
  by_cases hr : u.running = true
  · obtain ⟨done, left, hdone⟩ := hres.performed_of_running hr
    rcases hdone.upc_lt_or_left_nil with hbelow | rfl
    · have hwait : runTo s.program.length u = u := by
        rw [← hu]
        exact runTo_eq_of_waiting (hu ▸ (owes_iff _ _).mpr ⟨hr, hbelow⟩) _
      exact .inl (by rw [h, resume, ← hresume, hwait])
    · refine .inr ⟨u, h, ?_⟩
      have hnot : ∀ m, ¬AtWrinit u m := by
        intro m hm
        have hlen : done.length = 2 := by rw [← List.append_nil done, ← hdone.split]; rfl
        have := hdone.upc
        have := hm.upc_toNat
        have := hn.upc_toNat
        omega
      rcases step_por_cases (hdone.working.rst.trans hrst) (hdone.working.ph.trans hp) with h' | ⟨m, hm, -⟩
      · rw [h', resume, hdone.working.program, hresume, resume]
      · exact absurd hm (hnot m)
  · have hhalt : runTo s.program.length u = u := runInputs_halted (by simpa using hr) _ _
    exact .inl (by rw [h, resume, ← hresume, hhalt])

/-- Settles O47: the first step stops inside PORSEQ, and one or two more go on from there to its end. -/
theorem porseqMayBeSuspendedAnywhere : Obligations.PorseqMayBeSuspendedAnywhere := by
  intro s t ys hrst hp h hrst' hp'
  refine ⟨fun hu => exec_porseq (s := s.withMore ys) hrst hp hu, ?_⟩
  obtain ⟨es, hw⟩ := (step_result (running_of_por hrst hp) h).working_of_running (running_of_por hrst' hp')
  obtain ⟨n, hle, ht⟩ : ∃ n, n ≤ s.program.length ∧ step s = .next (runTo n s) := by
    rcases step_por_cases hrst hp with hs | ⟨n, hn, hs⟩
    · exact ⟨_, le_rfl, hs⟩
    · exact ⟨_, (hn.program hp).2.le, hs⟩
  have hresume : resume (t.withMore ys) = resume (s.withMore ys) := by
    obtain rfl := Host.Outcome.next.inj (h.symm.trans ht)
    have hprog : ((runTo n s).withMore ys).program = s.program := hw.program
    rw [resume, hprog]
    exact runTo_resumes hle ys s
  have hsteps := step_por_resumes (s := t.withMore ys) hrst' hp'
  rw [hresume] at hsteps
  exact hsteps

end Sys2Proof.Machine
end

section
/-! PROOF. The encoding (30_encoding.md): request words decoded and encoded (R70 to R73, R77, R78, R82), the read/write
bit of the bytes written (R79), and which operation a step runs (R77, R85). -/

namespace Sys2Proof.Machine

/-! ## The fields of a request word -/

/-- A request word put together again from its own fields (R70). -/
theorem requestWord_own_fields (w : Request) : requestWord w.op w.bl w.arg = w := by
  ext i hi
  simp [requestWord, Request.op, Request.bl, Request.arg]
  grind

theorem requestWord_of_op {w : Request} {op : BitVec 3} (h : w.op = op) : requestWord op w.bl w.arg = w :=
  h ▸ requestWord_own_fields w

/-- A request word as a number: its fields do not overlap (R70, R82). -/
theorem requestWord_eq_ofNat (op : BitVec 3) (bl : Bit) (arg : Arg) :
    requestWord op bl arg = BitVec.ofNat 20 (op.toNat * 2 ^ 17 + bl.toNat * 2 ^ 16 + arg.toNat) := by
  apply BitVec.eq_of_toNat_eq
  simp only [requestWord, BitVec.toNat_append, BitVec.toNat_ofNat]
  rw [← Nat.shiftLeft_add_eq_or_of_lt arg.isLt, ← Nat.shiftLeft_add_eq_or_of_lt bl.isLt, Nat.shiftLeft_eq,
    Nat.shiftLeft_eq, Nat.mod_eq_of_lt (by omega)]
  omega

/-- The argument made of an ignored byte and a logical byte, taken apart again (R72). -/
@[simp] theorem argByte_append (ign v : Byte) : argByte (ign ++ v) = v := by
  ext i hi
  simp [argByte]
  grind

@[simp] theorem argIgnored_append (ign v : Byte) : argIgnored (ign ++ v) = ign := by
  ext i hi
  simp [argIgnored]
  grind

/-- Where the two bytes of the argument stand in the word (R70, R72). -/
theorem argByte_arg (w : Request) : argByte w.arg = w.extractLsb' 0 8 := by
  ext i hi
  simp [argByte, Request.arg]

theorem argIgnored_arg (w : Request) : argIgnored w.arg = w.extractLsb' 8 8 := by
  ext i hi
  simp [argIgnored, Request.arg]

/-! ## The word of each operation code, decoded (R71, R78) -/

section
variable (bl : Bit) (arg : Arg)

@[simp] theorem decodeRequest_wrcmd_word :
    decodeRequest (requestWord 0#3 bl arg) = .wrcmd bl (argIgnored arg) (argByte arg) := by
  simp [decodeRequest, requestWord_fields]

@[simp] theorem decodeRequest_wrdata_word :
    decodeRequest (requestWord 1#3 bl arg) = .wrdata bl (argIgnored arg) (argByte arg) := by
  simp [decodeRequest, requestWord_fields]

@[simp] theorem decodeRequest_blon_word : decodeRequest (requestWord 2#3 bl arg) = .blon bl arg := by
  simp [decodeRequest, requestWord_fields]

@[simp] theorem decodeRequest_bloff_word : decodeRequest (requestWord 3#3 bl arg) = .bloff bl arg := by
  simp [decodeRequest, requestWord_fields]

@[simp] theorem decodeRequest_delay_word : decodeRequest (requestWord 4#3 bl arg) = .delay bl arg := by
  simp [decodeRequest, requestWord_fields]

@[simp] theorem decodeRequest_rsvd5_word : decodeRequest (requestWord 5#3 bl arg) = .rsvd5 bl arg := by
  simp [decodeRequest, requestWord_fields]

@[simp] theorem decodeRequest_rsvd6_word : decodeRequest (requestWord 6#3 bl arg) = .rsvd6 bl arg := by
  simp [decodeRequest, requestWord_fields]

@[simp] theorem decodeRequest_rsvd7_word : decodeRequest (requestWord 7#3 bl arg) = .rsvd7 bl arg := by
  simp [decodeRequest, requestWord_fields]

end

/-- Three bits have these eight values. -/
theorem op_cases (op : BitVec 3) :
    op = 0#3 ∨ op = 1#3 ∨ op = 2#3 ∨ op = 3#3 ∨ op = 4#3 ∨ op = 5#3 ∨ op = 6#3 ∨ op = 7#3 := by
  revert op; decide

/-- Decoding a word, by its operation code (R73). -/
theorem decodeRequest_cases (w : Request) :
    (w.op = 0#3 ∧ decodeRequest w = .wrcmd w.bl (argIgnored w.arg) (argByte w.arg)) ∨
    (w.op = 1#3 ∧ decodeRequest w = .wrdata w.bl (argIgnored w.arg) (argByte w.arg)) ∨
    (w.op = 2#3 ∧ decodeRequest w = .blon w.bl w.arg) ∨ (w.op = 3#3 ∧ decodeRequest w = .bloff w.bl w.arg) ∨
    (w.op = 4#3 ∧ decodeRequest w = .delay w.bl w.arg) ∨ (w.op = 5#3 ∧ decodeRequest w = .rsvd5 w.bl w.arg) ∨
    (w.op = 6#3 ∧ decodeRequest w = .rsvd6 w.bl w.arg) ∨ (w.op = 7#3 ∧ decodeRequest w = .rsvd7 w.bl w.arg) := by
  have hw : decodeRequest w = decodeRequest (requestWord w.op w.bl w.arg) := by rw [requestWord_own_fields]
  rcases op_cases w.op with h | h | h | h | h | h | h | h <;> rw [hw] <;> simp [h]

/-- Settles O2: by the operation, each word read back by its code. -/
theorem decodeOfEncodeIsTheInstruction : Obligations.DecodeOfEncodeIsTheInstruction := by
  intro i
  cases i with
  | wrcmd bl ign c => exact ⟨fun _ => ⟨_, rfl, (decodeRequest_wrcmd_word bl (ign ++ c)).trans (by simp)⟩, nofun⟩
  | wrdata bl ign d => exact ⟨fun _ => ⟨_, rfl, (decodeRequest_wrdata_word bl (ign ++ d)).trans (by simp)⟩, nofun⟩
  | blon bl arg => exact ⟨fun _ => ⟨_, rfl, decodeRequest_blon_word bl arg⟩, nofun⟩
  | bloff bl arg => exact ⟨fun _ => ⟨_, rfl, decodeRequest_bloff_word bl arg⟩, nofun⟩
  | delay bl t => exact ⟨fun _ => ⟨_, rfl, decodeRequest_delay_word bl t⟩, nofun⟩
  | rsvd5 bl arg => exact ⟨fun _ => ⟨_, rfl, decodeRequest_rsvd5_word bl arg⟩, nofun⟩
  | rsvd6 bl arg => exact ⟨fun _ => ⟨_, rfl, decodeRequest_rsvd6_word bl arg⟩, nofun⟩
  | rsvd7 bl arg => exact ⟨fun _ => ⟨_, rfl, decodeRequest_rsvd7_word bl arg⟩, nofun⟩
  | wrinit n => exact ⟨nofun, fun _ => rfl⟩
  | porseq lines => exact ⟨nofun, fun _ => rfl⟩

/-- Settles O3: by the operation code, the decoded operation's word is put together from the word's own fields. -/
theorem encodeOfDecodeIsTheWord : Obligations.EncodeOfDecodeIsTheWord := by
  intro w
  rcases decodeRequest_cases w with ⟨hop, h⟩ | ⟨hop, h⟩ | ⟨hop, h⟩ | ⟨hop, h⟩ | ⟨hop, h⟩ | ⟨hop, h⟩ | ⟨hop, h⟩ |
    ⟨hop, h⟩ <;> rw [h]
  case inl | inr.inl =>
    exact ⟨rfl, rfl, by simp [encode, argIgnored_append_argByte, requestWord_of_op hop]⟩
  all_goals exact ⟨rfl, rfl, congrArg some (requestWord_of_op hop)⟩

/-- Settles O1: the fields of the word are its slices. -/
theorem everyRequestWordDecodesByItsOpcode : Obligations.EveryRequestWordDecodesByItsOpcode := by
  intro w bl arg hi lo op
  have h := decodeRequest_cases w
  rw [argIgnored_arg, argByte_arg] at h
  exact h

/-- Settles O4: each word is the sum of its fields, and an argument with 0 in its ignored byte is its logical byte. -/
theorem canonicalRequestWords : Obligations.CanonicalRequestWords := by
  have harg : ∀ v : Byte, ((0 : Byte) ++ v).toNat = v.toNat := fun v =>
    (BitVec.toNat_append 0 v).trans (by simp)
  refine ⟨fun c bl => ?_, fun d bl => ?_, rfl, rfl, fun t => ?_⟩ <;> rw [encode, requestWord_eq_ofNat]
  · rw [harg]; rfl
  · rw [harg]; rfl
  · simp

/-! ## The read/write bit (R79) -/

/-- Every write of the micro-operations is a byte of the packer's shape (R76, R100). -/
def WritesPacked (ops : List MicroOp) : Prop :=
  ∀ b, .write b ∈ ops → ∃ n rs bl e, b = pack n rs bl e

namespace WritesPacked

theorem append {xs ys : List MicroOp} (hx : WritesPacked xs) (hy : WritesPacked ys) : WritesPacked (xs ++ ys) :=
  fun b hb => (List.mem_append.mp hb).elim (hx b) (hy b)

theorem nil : WritesPacked [] := by simp [WritesPacked]

theorem sleep (t : Arg) : WritesPacked [.sleep t] := by simp [WritesPacked]

theorem pack (n : Nibble) (rs bl e : Bit) : WritesPacked [.write (pack n rs bl e)] := by
  intro b hb
  exact ⟨n, rs, bl, e, by simpa using hb⟩

theorem strobe (n : Nibble) (rs bl : Bit) : WritesPacked (strobe n rs bl) :=
  (pack n rs bl 1).append (pack n rs bl 0)

theorem xfer (v : Byte) (rs bl : Bit) : WritesPacked (xfer v rs bl) :=
  (strobe _ rs bl).append (strobe _ rs bl)

theorem progWrcmd (c : Config) (bl : Bit) (v : Byte) : WritesPacked (progWrcmd c bl v) := by
  refine (xfer v 0 bl).append ?_
  split
  · exact sleep c.tSettle
  · exact nil

theorem requestProgram (c : Config) (op : BitVec 3) (bl : Bit) (arg : Arg) :
    WritesPacked (requestProgram c op bl arg) := by
  unfold Machine.requestProgram
  split
  · exact progWrcmd c bl _
  · exact xfer _ 1 bl
  · exact pack 0 0 1 0
  · exact pack 0 0 0 0
  · exact sleep arg
  · exact nil

theorem progPorseq (c : Config) (lines : BitVec 3) : WritesPacked (progPorseq c lines) :=
  (sleep _).append (strobe _ 0 0) |>.append (sleep _) |>.append (strobe _ 0 0) |>.append (sleep _)
    |>.append (strobe _ 0 0) |>.append (sleep _) |>.append (strobe _ 0 0) |>.append (sleep _)
    |>.append (progWrcmd c c.blPor _)

theorem program (s : State) : WritesPacked s.program := by
  unfold State.program
  split
  · exact requestProgram s.cfg s.opq s.blq s.argq
  · exact progPorseq s.cfg s.linesq
  · exact nil
  · exact nil

end WritesPacked

/-- The byte of the write at UPC has bit 1 clear. -/
theorem rw_low_of_current {s : State} {b : Byte} (hc : s.current = some (.write b)) : b.getLsbD RW_BIT = false := by
  obtain ⟨n, rs, bl, e, rfl⟩ := WritesPacked.program s b (List.mem_of_getElem? (current_some hc).2)
  exact pack_bit1 n rs bl e

theorem current_of_bwOut {s : State} {a : DevAddr} {b : Byte} (h : s.bwOut = some (a, b)) :
    s.current = some (.write b) := by
  unfold State.bwOut at h
  split at h <;> simp_all

/-- New events whose writes have bit 1 clear keep the invariant. -/
theorem RwLow.append {s t : State} {es : List Event} (hs : RwLow s) (htrace : t.trace = s.trace ++ es)
    (hes : ∀ e ∈ es, ∀ b, e.byte = some b → b.getLsbD RW_BIT = false) : RwLow t := by
  intro e he
  rw [htrace] at he
  exact (List.mem_append.mp he).elim (hs e) (hes e)

theorem RwLow.respond {s : State} (hs : RwLow s) (r : Response) : RwLow (respond r s) :=
  hs.append rfl (by simp [Event.byte])

theorem RwLow.finish {s : State} (hs : RwLow s) (he : s.atEnd = true) : RwLow (finish s) := by
  rcases finish_cases he with ⟨-, e⟩ | ⟨-, e⟩ <;> rw [e]
  · exact RwLow.respond (s := { s with ph := .idle, upc := 0#5 }) hs .ok
  · exact hs

theorem RwLow.onInput {s : State} (hs : RwLow s) (i : Input) : RwLow (onInput i s) := by
  obtain ⟨es, htrace, hes, -⟩ := onInput_trace i s
  exact hs.append htrace fun e he b hb => rw_low_of_current ((hes e he).2 b hb)

/-- Settles O43: every byte at the port is the packer's, and the single moves of a step add to the trace no other. -/
theorem noByteHasTheReadBit : Obligations.NoByteHasTheReadBit := by
  refine ⟨fun s a b h => rw_low_of_current (current_of_bwOut h), fun s t hs h => ?_⟩
  exact step_induction RwLow
    (fun _ _ _ _ hu _ _ => hu)
    (fun _ _ _ _ hu _ => RwLow.respond hu _)
    (fun _ hu _ => hu)
    (fun _ hu he => hu.finish he)
    (fun i rest u hu => RwLow.onInput (s := { u with inputs := rest }) hu i)
    h hs

/-! ## The operation a step runs -/

theorem step_of_fetch {s : State} {i : Instr} (h : fetch s = some i) : step s = exec i s := by
  simp [step, h]

theorem sequencerIssues_of_atWrinit {s : State} {n : Nibble} (hrst : s.rst = false) (hp : s.ph = .por)
    (h : AtWrinit s n) : sequencerIssues s = some (.wrinit n) := by
  rcases h with ⟨hu | hu | hu, rfl⟩ | ⟨hu, rfl⟩ <;> simp [sequencerIssues, running_of_por hrst hp, hp, hu]

theorem fetch_por {s : State} (hp : s.ph = .por) : fetch s = sequencerIssues s := by
  simp [fetch, State.reqReady, hp]

/-- At a WRINIT of PORSEQ the step runs it. -/
theorem step_atWrinit {s : State} {n : Nibble} (hrst : s.rst = false) (hp : s.ph = .por) (h : AtWrinit s n) :
    step s = exec (.wrinit n) s :=
  step_of_fetch ((fetch_por hp).trans (sequencerIssues_of_atWrinit hrst hp h))

/-- Where no WRINIT stands at UPC, the engine goes on with PORSEQ. -/
theorem step_por_of_not_atWrinit {s : State} (hrst : s.rst = false) (hp : s.ph = .por) (h : ∀ n, ¬AtWrinit s n) :
    step s = .next (resume s) :=
  (step_por_cases hrst hp).resolve_right fun ⟨n, hn, _⟩ => h n hn

/-- Settles O34: by the phase, and in PH_POR by what stands at UPC. -/
theorem stepRunsTheOperationAtHand : Obligations.StepRunsTheOperationAtHand := by
  intro s
  refine ⟨step_of_offer, fun hrst hp hu => ?_, fun hrst hp hu => step_atWrinit hrst hp (.inl ⟨hu, rfl⟩),
    fun hrst hp hu => step_atWrinit hrst hp (.inr ⟨hu, rfl⟩), fun hrst hp _ h1 h4 h7 h10 => ?_, step_of_busy,
    fun hwait => ?_⟩
  · rw [exec_porseq hrst hp hu]
    exact step_por_of_not_atWrinit hrst hp (by simp [AtWrinit, hu])
  · exact step_por_of_not_atWrinit hrst hp (by rintro n (⟨hu | hu | hu, -⟩ | ⟨hu, -⟩) <;> contradiction)
  · have hr : s.running = false := by rcases hwait with h | h | ⟨h, -⟩ <;> simp [State.running, h]
    have hstep : step s = .next (takeInput s) := by
      refine step_of_not_running hr fun hready => ?_
      obtain ⟨hrst, hp⟩ := (reqReady_iff s).mp hready
      simpa [hrst, hp] using hwait
    exact ⟨fun hi => by rw [hstep, takeInput, hi], fun i rest hi => by rw [hstep, takeInput, hi]⟩

/-! ## A placed word of the operation table -/

theorem fetch_placeRequest (w : Request) (s : State) : fetch (placeRequest w s) = some (decodeRequest w) := by
  simp [fetch, placeRequest, State.reqReady]

theorem fetch_placeWrinit (n : Nibble) (s : State) : fetch (placeWrinit n s) = some (.wrinit n) := by
  unfold placeWrinit
  split
  case isTrue h => exact (fetch_por rfl).trans (sequencerIssues_of_atWrinit rfl rfl (.inl ⟨.inl rfl, h⟩))
  case isFalse => exact (fetch_por rfl).trans (sequencerIssues_of_atWrinit rfl rfl (.inr ⟨rfl, rfl⟩))

/-- The clamp leaves a legal line count alone (R30). -/
theorem clampLines_of_legal {lines : BitVec 3} (h : legalLines lines = true) : clampLines lines = lines := by
  revert lines; decide

theorem fetch_placePorseq {lines : BitVec 3} (h : legalLines lines = true) (s : State) :
    fetch (placePorseq lines s) = some (.porseq lines) := by
  rw [fetch_por rfl]
  simp [sequencerIssues, placePorseq, State.running, clampLines_of_legal h]

/-- The operation that the table's word names is the one the next step fetches. -/
theorem fetch_withFetchWord {nbits w : Nat} {i : Instr} (h : decodeTableWord nbits w = some i) (s : State) :
    fetch (s.withFetchWord nbits w) = some i := by
  have hok : decodeWord nbits w = .ok i := by
    unfold decodeTableWord at h
    split at h <;> simp_all
  unfold decodeWord at hok
  unfold State.withFetchWord placeWord
  cases hf : TableFormat.ofWidth nbits <;> simp only [hf] at hok ⊢
  case reset =>
    split at hok
    case isTrue hl =>
      obtain rfl := Except.ok.inj hok
      exact fetch_placePorseq (Bool.and_elim_left hl) s
    case isFalse => simp at hok
  case internal =>
    split at hok
    case isTrue =>
      obtain rfl := Except.ok.inj hok
      exact fetch_placeWrinit _ s
    case isFalse => simp at hok
  case request =>
    split at hok
    case isTrue =>
      obtain rfl := Except.ok.inj hok
      exact fetch_placeRequest _ s
    case isFalse => simp at hok
  case none => simp at hok

/-- Settles O46: the placed word's operation is fetched, so the step runs it. -/
theorem tableWordRunsAsItsOperation : Obligations.TableWordRunsAsItsOperation :=
  fun s _ _ _ h => step_of_fetch (fetch_withFetchWord h s)

end Sys2Proof.Machine
end

section
/-! PROOF. The transfer family (40_transfer.md): the nibble packer and the strobe controller (R100 to R104), and what
WRCMD, WRDATA and WRINIT answer when their writes succeed and when one fails (R108 to R113). -/

namespace Sys2Proof.Machine

/-! ## The nibble packer (R100, R101) -/

/-- The fields of PACK do not overlap, so their OR is a sum. -/
theorem pack_toNat (n : Nibble) (rs bl e : Bit) :
    (pack n rs bl e).toNat = n.toNat * 16 + bl.toNat * 8 + e.toNat * 4 + rs.toNat := by
  revert n rs bl e; decide

theorem pack_eq_ofNat (n : Nibble) (rs bl e : Bit) :
    pack n rs bl e = BitVec.ofNat 8 (n.toNat * 16 + bl.toNat * 8 + e.toNat * 4 + rs.toNat) := by
  rw [← pack_toNat, BitVec.ofNat_toNat, BitVec.setWidth_eq]

@[simp] theorem pack_nibble (n : Nibble) (rs bl e : Bit) : (pack n rs bl e).extractLsb' 4 4 = n := by
  revert n rs bl e; decide

@[simp] theorem pack_rs (n : Nibble) (rs bl e : Bit) : (pack n rs bl e).extractLsb' 0 1 = rs := by
  revert n rs bl e; decide

@[simp] theorem pack_bl (n : Nibble) (rs bl e : Bit) : (pack n rs bl e).extractLsb' 3 1 = bl := by
  revert n rs bl e; decide

@[simp] theorem pack_enable (n : Nibble) (rs bl e : Bit) : (pack n rs bl e).extractLsb' 2 1 = e := by
  revert n rs bl e; decide

/-- Every field is read back, so PACK is injective. -/
theorem pack_injective {n n' : Nibble} {rs rs' bl bl' e e' : Bit} (h : pack n rs bl e = pack n' rs' bl' e') :
    n = n' ∧ rs = rs' ∧ bl = bl' ∧ e = e' :=
  ⟨by simpa using congrArg (·.extractLsb' 4 4) h, by simpa using congrArg (·.extractLsb' 0 1) h,
    by simpa using congrArg (·.extractLsb' 3 1) h, by simpa using congrArg (·.extractLsb' 2 1) h⟩

/-- Setting the enable-strobe adds bit 2. -/
theorem pack_set_eq_or (n : Nibble) (rs bl : Bit) : pack n rs bl 1 = pack n rs bl 0 ||| 0x04#8 := by
  revert n rs bl; decide

/-- The two bytes of a strobe pair differ in bit 2 only. -/
theorem pack_set_xor_clear (n : Nibble) (rs bl : Bit) : pack n rs bl 1 ^^^ pack n rs bl 0 = 0x04#8 := by
  revert n rs bl; decide

/-- Settles O6: the OR of disjoint fields. -/
theorem packIsTheSumOfItsFields : Obligations.PackIsTheSumOfItsFields := pack_toNat

/-- Settles O7: the fields read back one by one, and with them injectivity. -/
theorem packFieldsReadBack : Obligations.PackFieldsReadBack :=
  ⟨fun n rs bl e => ⟨pack_bit1 n rs bl e, pack_nibble n rs bl e, pack_rs n rs bl e, pack_bl n rs bl e,
      pack_enable n rs bl e, pack_set_eq_or n rs bl, pack_set_xor_clear n rs bl⟩,
    fun _ _ _ _ _ _ _ _ => pack_injective, rfl, rfl, rfl, rfl, rfl, rfl, rfl⟩

/-! ## The strobe controller (R102, R104) -/

theorem hiNibble_eq_ofNat (v : Byte) : hiNibble v = BitVec.ofNat 4 (v.toNat / 16) := by
  apply BitVec.eq_of_toNat_eq
  simp [hiNibble, Nat.shiftRight_eq_div_pow]

theorem loNibble_eq_ofNat (v : Byte) : loNibble v = BitVec.ofNat 4 (v.toNat % 16) := by
  apply BitVec.eq_of_toNat_eq
  simp [loNibble]

/-- The four bytes of XFER, high nibble first, each with the enable-strobe set and then cleared (R104). -/
def transferBytes (v : Byte) (rs bl : Bit) : List Byte :=
  [pack (hiNibble v) rs bl 1, pack (hiNibble v) rs bl 0, pack (loNibble v) rs bl 1, pack (loNibble v) rs bl 0]

theorem xfer_eq_writes (v : Byte) (rs bl : Bit) : xfer v rs bl = (transferBytes v rs bl).map .write := rfl

/-- Settles O8: the halves of the byte as numbers, and PACK as the sum of its fields. -/
theorem logicalByteIsTwoStrobePairs : Obligations.LogicalByteIsTwoStrobePairs := by
  refine ⟨fun n rs bl => ⟨rfl, pack_set_xor_clear n rs bl, latchAt_strobe n rs bl⟩, fun v rs bl => ⟨?_, ?_⟩⟩
  · rw [xfer, hiNibble_eq_ofNat, loNibble_eq_ofNat]
  · have hhi : (hiNibble v).toNat = v.toNat / 16 := by
      rw [hiNibble_eq_ofNat, BitVec.toNat_ofNat, Nat.mod_eq_of_lt (by have := v.isLt; omega)]
    have hlo : (loNibble v).toNat = v.toNat % 16 := by
      rw [loNibble_eq_ofNat, BitVec.toNat_ofNat, Nat.mod_mod]
    simp [xfer_eq_writes, transferBytes, pack_eq_ofNat, hhi, hlo]

/-! ## Micro-operations that are all writes -/

theorem answersOf_append (xs ys : List MicroOp) : answersOf (xs ++ ys) = answersOf xs ++ answersOf ys := by
  induction xs with
  | nil => rfl
  | cons x xs ih =>
    cases x with
    | write b => simp [answersOf, ih]
    | sleep t => by_cases ht : t = 0#16 <;> simp [answersOf, ht, ih]

theorem answersOf_writes (bs : List Byte) : answersOf (bs.map .write) = List.replicate bs.length (.bwDone false) := by
  induction bs with
  | nil => rfl
  | cons b bs ih => simp [answersOf, ih, List.replicate_succ]

theorem eventsOf_writes (addr : DevAddr) (bs : List Byte) : eventsOf addr (bs.map .write) = bs.map (.write addr) := by
  induction bs with
  | nil => rfl
  | cons b bs ih => simp [eventsOf, ih]

/-- Writes, split at the one with index `k`. -/
theorem writes_split {bs : List Byte} {k : Nat} {b : Byte} (hb : bs[k]? = some b) :
    bs.map MicroOp.write = (bs.take k).map .write ++ .write b :: (bs.drop (k + 1)).map .write := by
  obtain ⟨hk, rfl⟩ := List.getElem?_eq_some_iff.mp hb
  rw [← List.map_cons, ← List.drop_eq_getElem_cons hk, ← List.map_append, List.take_append_drop]

/-- The answers with which the write with index `k` is the first to fail. -/
theorem answersOf_take_writes {bs : List Byte} {k : Nat} {b : Byte} (hb : bs[k]? = some b) :
    answersOf ((bs.take k).map .write) = List.replicate k (.bwDone false) := by
  have hk : k < bs.length := (List.getElem?_eq_some_iff.mp hb).1
  rw [answersOf_writes, List.length_take, Nat.min_eq_left hk.le]

/-- An accepted request that begins with writes, of which the one with index `k` is the first to fail (R172). -/
theorem runRequest_fails_at {op : BitVec 3} {bl : Bit} {arg : Arg} {s : State} {bs : List Byte}
    {after : List MicroOp} {k : Nat} {b : Byte} {rest : List Input} (hr : s.reqReady = true)
    (hp : requestProgram s.cfg op bl arg = bs.map .write ++ after) (hb : bs[k]? = some b)
    (hi : s.inputs = List.replicate k (.bwDone false) ++ .bwDone true :: rest) :
    runRequest op bl arg s =
      { s with opq := op, blq := bl, argq := arg, reqValid := false, ph := .idle, upc := 0, inputs := rest,
               port := Config.freePort s.draws, nph := .unknown, draws := s.draws + 1,
               trace := s.trace ++ (bs.take k).map (.write s.addr) ++
                 [.writeFailed s.addr b, .resp .busTransactionError] } := by
  rw [writes_split hb, List.append_assoc, List.cons_append] at hp
  rw [← answersOf_take_writes hb] at hi
  rw [runRequest_fails hr hp hi, eventsOf_writes]

/-! ## WRCMD and WRDATA (R108 to R111) -/

theorem exec_wrcmd (bl : Bit) (ign c : Byte) (s : State) :
    exec (.wrcmd bl ign c) s = .next (runRequest 0 bl (ign ++ c) s) := rfl

theorem exec_wrdata (bl : Bit) (ign d : Byte) (s : State) :
    exec (.wrdata bl ign d) s = .next (runRequest 1 bl (ign ++ d) s) := rfl

/-- The ignored byte of the argument does not come into the micro-program (R72). -/
theorem requestProgram_wrcmd (c : Config) (bl : Bit) (ign v : Byte) :
    requestProgram c 0 bl (ign ++ v) = progWrcmd c bl v :=
  congrArg (progWrcmd c bl) (argByte_append ign v)

theorem requestProgram_wrdata (c : Config) (bl : Bit) (ign v : Byte) :
    requestProgram c 1 bl (ign ++ v) = xfer v 1 bl :=
  congrArg (xfer · 1 bl) (argByte_append ign v)

/-- The settling sleep comes after the four writes, for `v <= 3` only (R108, R109). -/
theorem progWrcmd_eq (c : Config) (bl : Bit) (v : Byte) :
    progWrcmd c bl v = (transferBytes v 0 bl).map .write ++ if v.toNat ≤ 3 then [.sleep c.tSettle] else [] := by
  simp [progWrcmd, xfer_eq_writes, needsSettling]

theorem answersOf_progWrcmd {c : Config} (ht : c.tSettle ≠ 0#16) (bl : Bit) (v : Byte) :
    answersOf (progWrcmd c bl v) =
      List.replicate 4 (.bwDone false) ++ if v.toNat ≤ 3 then [.tmDone] else [] := by
  rw [progWrcmd_eq, answersOf_append, answersOf_writes]
  split <;> simp [answersOf, ht, transferBytes]

theorem eventsOf_progWrcmd {c : Config} (ht : c.tSettle ≠ 0#16) (addr : DevAddr) (bl : Bit) (v : Byte) :
    eventsOf addr (progWrcmd c bl v) =
      (transferBytes v 0 bl).map (.write addr) ++ if v.toNat ≤ 3 then [.sleep c.tSettle] else [] := by
  rw [progWrcmd_eq, eventsOf_append, eventsOf_writes]
  split <;> simp [eventsOf, ht]

/-- Settles O9: four writes and the settling sleep, or the first write that fails. -/
theorem wrcmdWritesFourBytesThenSettles : Obligations.WrcmdWritesFourBytesThenSettles := by
  intro s bl ign c rest hi lo bytes latched hr hset
  have ht : s.cfg.tSettle ≠ 0#16 := by
    intro h
    simp [h] at hset
  have hprog := requestProgram_wrcmd s.cfg bl ign c
  obtain ⟨hport, hnph⟩ := afterWrites_xfer s.nph s.port c 0 bl
  refine ⟨fun hin => ⟨false, s.nph, ?_⟩, fun k b hb hin => ⟨false, .unknown, ?_⟩⟩
  · rw [exec_wrcmd, runRequest_completes hr (by rw [hprog, answersOf_progWrcmd ht]; exact hin), hprog,
      eventsOf_progWrcmd ht, writesOf_progWrcmd, hport, hnph, ← List.append_assoc]
    rfl
  · exact congrArg Host.Outcome.next (runRequest_fails_at hr (hprog.trans (progWrcmd_eq s.cfg bl c)) hb hin)

/-- Settles O10: four writes, or the first write that fails. -/
theorem wrdataWritesFourBytes : Obligations.WrdataWritesFourBytes := by
  intro s bl ign d rest hi lo bytes latched hr
  have hprog := requestProgram_wrdata s.cfg bl ign d
  obtain ⟨hport, hnph⟩ := afterWrites_xfer s.nph s.port d 1 bl
  refine ⟨fun hin => ⟨false, s.nph, ?_⟩, fun k b hb hin => ⟨false, .unknown, ?_⟩⟩
  · rw [exec_wrdata, runRequest_completes hr (by rw [hprog, xfer_eq_writes, answersOf_writes]; exact hin), hprog,
      hport, hnph, xfer_eq_writes, eventsOf_writes]
    rfl
  · exact congrArg Host.Outcome.next
      (runRequest_fails_at (after := []) hr (hprog.trans (List.append_nil _).symm) hb hin)

/-! ## The bytes of a request, for any inputs (R105) -/

theorem byte_of_mem_eventsOf {addr : DevAddr} {ops : List MicroOp} {e : Event} {b : Byte}
    (he : e ∈ eventsOf addr ops) (hb : e.byte = some b) : .write b ∈ ops := by
  induction ops with
  | nil => simp [eventsOf] at he
  | cons op ops ih =>
    cases op with
    | write b' =>
      rcases List.mem_cons.mp he with rfl | he
      · obtain rfl : b' = b := Option.some.inj hb
        exact List.mem_cons_self
      · exact List.mem_cons_of_mem _ (ih he)
    | sleep t =>
      rw [eventsOf] at he
      split at he
      case isTrue => exact List.mem_cons_of_mem _ (ih he)
      case isFalse =>
        rcases List.mem_cons.mp he with rfl | he
        · simp [Event.byte] at hb
        · exact List.mem_cons_of_mem _ (ih he)

theorem byte_of_mem_cutByReset {addr : DevAddr} {op : MicroOp} {e : Event} {b : Byte}
    (he : e ∈ cutByReset addr op) (hb : e.byte = some b) : op = .write b := by
  cases op <;> simp_all [cutByReset, Event.byte]

/-- Whatever the inputs are and whatever became of the write, a byte that a request adds to the trace is one its
micro-program writes. -/
theorem byte_mem_requestProgram {w : Request} {s t : State} (h : exec (decodeRequest w) s = .next t) :
    ∃ es, t.trace = s.trace ++ es ∧
      ∀ e ∈ es, ∀ b, e.byte = some b → .write b ∈ requestProgram s.cfg w.op w.bl w.arg := by
  by_cases hr : s.reqReady = true
  · obtain ⟨done, left, tail, hprog, htrace, hend⟩ := requestEventsFollowTheMicroProgram s t w hr h
    have htail : ∀ e ∈ tail, ∀ b, e.byte = some b → .write b ∈ left := by
      rcases hend with ⟨-, -, -, -, -, rfl⟩ | ⟨-, -, -, -, rfl⟩ | ⟨-, -, b, more, rfl, rfl⟩ |
        ⟨-, -, -, -, rfl⟩ | ⟨-, -, -, m, more, rfl, rfl⟩
      · simp
      · simp [Event.byte]
      · simp [Event.byte]
      · simp [Event.byte]
      · intro e he b hb
        rw [byte_of_mem_cutByReset he hb]
        exact List.mem_cons_self
    refine ⟨eventsOf s.addr done ++ tail, by rw [htrace, List.append_assoc], fun e he b hb => ?_⟩
    have hmem : .write b ∈ done ++ left := by
      rcases List.mem_append.mp he with he | he
      · exact List.mem_append_left _ (byte_of_mem_eventsOf he hb)
      · exact List.mem_append_right _ (htail e he b hb)
    exact hprog ▸ hmem
  · rcases exec_decodeRequest_cases h with ⟨hr', -⟩ | ⟨hr', -⟩ | ⟨-, rfl⟩
    · exact absurd hr' hr
    · exact absurd hr' hr
    · exact ⟨[], by simp, by simp⟩

/-- The same of a request by its operation code. -/
theorem runRequest_bytes {op : BitVec 3} (hop : op.toNat ≤ 4) (bl : Bit) (arg : Arg) (s : State) :
    ∃ es, (runRequest op bl arg s).trace = s.trace ++ es ∧
      ∀ e ∈ es, ∀ b, e.byte = some b → .write b ∈ requestProgram s.cfg op bl arg := by
  obtain ⟨hop', hbl, harg⟩ := requestWord_fields op bl arg
  have hexec : exec (decodeRequest (requestWord op bl arg)) s = .next (runRequest op bl arg s) := by
    rw [exec_decodeRequest, hop', hbl, harg, if_pos hop]
  simpa only [hop', hbl, harg] using byte_mem_requestProgram hexec

/-- Every byte of XFER carries its register-select and its backlight bit. -/
theorem xfer_byte_fields {v b : Byte} {rs bl : Bit} (hb : .write b ∈ xfer v rs bl) :
    b.extractLsb' 3 1 = bl ∧ b.extractLsb' 0 1 = rs := by
  have hpack : ∃ n e, b = pack n rs bl e := by
    simp only [xfer_eq_writes, transferBytes, List.map_cons, List.map_nil, List.mem_cons, MicroOp.write.injEq,
      List.not_mem_nil, or_false] at hb
    rcases hb with h | h | h | h <;> exact ⟨_, _, h⟩
  obtain ⟨n, e, rfl⟩ := hpack
  exact ⟨pack_bl n rs bl e, pack_rs n rs bl e⟩

/-- The settling sleep is no write. -/
theorem write_mem_progWrcmd {c : Config} {bl : Bit} {v b : Byte} (hb : .write b ∈ progWrcmd c bl v) :
    .write b ∈ xfer v 0 bl := by
  rw [progWrcmd] at hb
  split at hb <;> simpa using hb

/-- Settles O38: the bytes of WRCMD and WRDATA are those of their XFER. -/
theorem everyTransferByteCarriesTheBacklight : Obligations.EveryTransferByteCarriesTheBacklight := by
  refine ⟨fun v rs bl op hop => ?_, fun s t bl ign v => ⟨fun h => ?_, fun h => ?_⟩⟩
  · rw [xfer_eq_writes] at hop
    obtain ⟨b, -, rfl⟩ := List.mem_map.mp hop
    exact ⟨b, rfl⟩
  · obtain rfl := Host.Outcome.next.inj ((exec_wrcmd bl ign v s).symm.trans h)
    obtain ⟨es, htrace, hes⟩ := runRequest_bytes (op := 0) (by decide) bl (ign ++ v) s
    rw [requestProgram_wrcmd] at hes
    exact ⟨es, htrace, fun e he b hb => xfer_byte_fields (write_mem_progWrcmd (hes e he b hb))⟩
  · obtain rfl := Host.Outcome.next.inj ((exec_wrdata bl ign v s).symm.trans h)
    obtain ⟨es, htrace, hes⟩ := runRequest_bytes (op := 1) (by decide) bl (ign ++ v) s
    rw [requestProgram_wrdata] at hes
    exact ⟨es, htrace, fun e he b hb => xfer_byte_fields (hes e he b hb)⟩

/-! ## WRINIT (R112, R113) -/

/-- At its stop, inside the micro-program, the engine does nothing. -/
theorem runInputs_at_stop {stop : Nat} {s : State} (hu : stop ≤ s.upc.toNat) (he : s.atEnd = false)
    (ins : List Input) : runInputs stop ins s = s := by
  have hskip : ∀ fuel, skipSleeps stop fuel s = s := by
    intro fuel
    cases fuel with
    | zero => rfl
    | succ n => rw [skipSleeps, if_neg (by omega)]
  have hsettle : settleTo stop s = s := by simp [settleTo, hskip, he]
  have howes : s.owes stop = false := by simp [State.owes, hu]
  cases ins <;> simp [runInputs, hsettle, howes]

/-- A failed write of PORSEQ (R151). -/
theorem writeFailed_por {s : State} (hp : s.ph = .por) (b : Byte) :
    writeFailed b s =
      { s with ph := .fail, upc := 0, port := Config.freePort s.draws, nph := .unknown, draws := s.draws + 1,
               trace := s.trace ++ [.writeFailed s.addr b] } := by
  simp [writeFailed, raiseBusError, hp]

/-- The two bytes of WRINIT. -/
theorem progWrinit_eq_writes (n : Nibble) : progWrinit n = [pack n 0 0 1, pack n 0 0 0].map .write := rfl

section
variable {s : State} {n : Nibble} {rest : List Input} (hrst : s.rst = false) (hp : s.ph = .por) (h : AtWrinit s n)
include hrst hp h

/-- A WRINIT with both writes answered stops behind its pair, inside PORSEQ. -/
theorem exec_wrinit_completes (hi : s.inputs = answersOf (progWrinit n) ++ rest) :
    exec (.wrinit n) s = .next (performOps (progWrinit n) { s with inputs := rest }) := by
  obtain ⟨hprefix, hlt⟩ := h.program hp
  have hupc := (performOps_upc (s := { s with inputs := rest }) (ops := progWrinit n) hprefix).resolve_right
    (by simp [progWrinit, strobe])
  rw [exec_wrinit hrst hp h, runTo,
    runInputs_performs _ _ rest s (running_of_por hrst hp) hprefix le_rfl hi, runInputs_at_stop hupc.ge]
  simp [State.atEnd, hupc, hlt]

/-- A WRINIT whose write with index `k` fails ends PORSEQ. -/
theorem exec_wrinit_fails {k : Nat} {b : Byte} (hb : [pack n 0 0 1, pack n 0 0 0][k]? = some b)
    (hi : s.inputs = List.replicate k (.bwDone false) ++ .bwDone true :: rest) :
    exec (.wrinit n) s = .next { s with
      ph := .fail, upc := 0, port := Config.freePort s.draws, nph := .unknown, draws := s.draws + 1
      trace := s.trace ++ ([pack n 0 0 1, pack n 0 0 0].take k).map (.write s.addr) ++ [.writeFailed s.addr b]
      inputs := rest } := by
  obtain ⟨⟨tail, htail⟩, -⟩ := h.program hp
  rw [progWrinit_eq_writes, writes_split hb, List.append_assoc, List.cons_append] at htail
  rw [← answersOf_take_writes hb] at hi
  have hk : k < 2 := (List.getElem?_eq_some_iff.mp hb).1
  have hlen : ((List.take k [pack n 0 0 1, pack n 0 0 0]).map MicroOp.write).length < (progWrinit n).length := by
    simp [progWrinit, strobe]; omega
  rw [exec_wrinit hrst hp h, runTo, runInputs_fails _ _ b _ rest s (running_of_por hrst hp) htail.symm
    (by omega) hi, performOps_eq, writeFailed_por (by exact hp), eventsOf_writes]

end

/-- Settles O15: the pair answered, its first write failed, its second write failed. -/
theorem wrinitWritesOneStrobePair : Obligations.WrinitWritesOneStrobePair := by
  intro s n rest up down hrst hp hat
  refine ⟨fun hi => ?_, fun hi => ?_, fun hi => ?_⟩
  · have hexec := exec_wrinit_completes hrst hp hat (rest := rest) hi
    rw [performOps_eq] at hexec
    exact ⟨_, hexec⟩
  · have hexec := exec_wrinit_fails hrst hp hat (k := 0) rfl hi
    exact ⟨.unknown, by simpa [up, down] using hexec⟩
  · have hexec := exec_wrinit_fails hrst hp hat (k := 1) rfl hi
    exact ⟨.unknown, by simpa [up, down] using hexec⟩

end Sys2Proof.Machine
end

section
/-! PROOF. The operations that move no logical byte (41_backlight_delay.md): what BLON, BLOFF and DELAY answer (R130,
R133, R136, R137), and that an operation without a write leaves the far side alone (R174). -/

namespace Sys2Proof.Machine

/-! ## BLON and BLOFF (R130, R133) -/

/-- The backlight bit alone is 0x08 (R100), and neither operand comes into the micro-program (R72). -/
theorem requestProgram_blon (c : Config) (bl : Bit) (arg : Arg) : requestProgram c 2 bl arg = [.write 0x08#8] := rfl

theorem requestProgram_bloff (c : Config) (bl : Bit) (arg : Arg) : requestProgram c 3 bl arg = [.write 0x00#8] := rfl

section
variable {op : BitVec 3} {bl : Bit} {arg : Arg} {s : State} {b : Byte} {rest : List Input}
  (hr : s.reqReady = true) (hp : requestProgram s.cfg op bl arg = [.write b])
include hr hp

/-- An accepted request of one write, answered `success`. -/
theorem runRequest_write_completes (hi : s.inputs = .bwDone false :: rest) :
    runRequest op bl arg s =
      { s with opq := op, blq := bl, argq := arg, reqValid := false, ph := .idle, upc := 0, inputs := rest,
               port := b, nph := s.nph.after (latchAt s.port b),
               trace := s.trace ++ [.write s.addr b, .resp .ok] } := by
  rw [runRequest_completes hr (rest := rest) (by rw [hp]; exact hi), hp]
  simp [respond, writesOf, portAfter, NibblePhase.afterWrites, eventsOf]

/-- An accepted request of one write, answered `busError`. -/
theorem runRequest_write_fails (hi : s.inputs = .bwDone true :: rest) :
    runRequest op bl arg s =
      { s with opq := op, blq := bl, argq := arg, reqValid := false, ph := .idle, upc := 0, inputs := rest,
               port := Config.freePort s.draws, nph := .unknown, draws := s.draws + 1,
               trace := s.trace ++ [.writeFailed s.addr b, .resp .busTransactionError] } := by
  rw [runRequest_fails (pre := []) (post := []) hr hp hi]
  simp [eventsOf]

end

/-- Settles O11: the one write answered, or failed. -/
theorem blonWritesTheBacklightBit : Obligations.BlonWritesTheBacklightBit := by
  intro s bl arg rest latched hr
  have hprog := requestProgram_blon s.cfg bl arg
  exact ⟨fun hi => ⟨false, _, congrArg Host.Outcome.next (runRequest_write_completes hr hprog hi)⟩,
    fun hi => ⟨false, _, congrArg Host.Outcome.next (runRequest_write_fails hr hprog hi)⟩⟩

/-- Settles O12: the one write answered, or failed. -/
theorem bloffWritesTheZeroByte : Obligations.BloffWritesTheZeroByte := by
  intro s bl arg rest latched hr
  have hprog := requestProgram_bloff s.cfg bl arg
  exact ⟨fun hi => ⟨false, _, congrArg Host.Outcome.next (runRequest_write_completes hr hprog hi)⟩,
    fun hi => ⟨false, _, congrArg Host.Outcome.next (runRequest_write_fails hr hprog hi)⟩⟩

/-! ## DELAY (R136, R137) -/

theorem exec_delay (bl : Bit) (t : Arg) (s : State) : exec (.delay bl t) s = .next (runRequest 4#3 bl t s) := rfl

theorem requestProgram_delay (c : Config) (bl : Bit) (t : Arg) : requestProgram c 4#3 bl t = [.sleep t] := rfl

/-- A bus answer during a sleep is ignored (R192). -/
theorem onInput_bwDone_of_sleep {s : State} {t : Arg} (hc : s.current = some (.sleep t)) (err : Bool) :
    onInput (.bwDone err) s = s := by
  simp [onInput, answerWrite, hc]

/-- The engine, waiting for the end of a sleep, takes stray bus answers and goes on as if they had not come. -/
theorem runTo_stray_bwDone {stop : Nat} {t : Arg} (ht : t ≠ 0#16) (stray : List Bool) (later : List Input)
    (s : State) (hc : s.current = some (.sleep t)) (hs : s.upc.toNat < stop)
    (hi : s.inputs = stray.map .bwDone ++ later) : runTo stop s = runTo stop { s with inputs := later } := by
  induction stray generalizing s with
  | nil =>
    obtain rfl : s.inputs = later := hi
    rfl
  | cons err stray ih =>
    rw [runTo, hi, List.map_cons, List.cons_append, runInputs_waiting hc (by simpa using ht) hs,
      onInput_bwDone_of_sleep (by exact hc)]
    exact ih { s with inputs := stray.map .bwDone ++ later } hc hs rfl

/-- Bus answers that come during the sleep of a DELAY make no difference. -/
theorem runRequest_delay_stray {bl : Bit} {t : Arg} {s : State} {stray : List Bool} {later : List Input}
    (hr : s.reqReady = true) (ht : t ≠ 0#16) (hi : s.inputs = stray.map .bwDone ++ later) :
    runRequest 4#3 bl t s = runRequest 4#3 bl t { s with inputs := later } := by
  obtain ⟨hrst, -⟩ := (reqReady_iff s).mp hr
  have hcur : (acceptRequest 4#3 bl t s).current = some (.sleep t) := by
    simp [State.current, State.running, State.program, hrst, requestProgram_delay]
  have hlt := upc_lt_of_current hcur
  have hready : ({ s with inputs := later } : State).reqReady = true := hr
  rw [runRequest, if_pos hr, runRequest, if_pos hready]
  exact runTo_stray_bwDone ht stray later _ hcur hlt hi

/-- An accepted DELAY whose sleep ends, or has nothing to wait for. -/
theorem runRequest_delay_completes {bl : Bit} {t : Arg} {s : State} {rest : List Input} (hr : s.reqReady = true)
    (hi : s.inputs = answersOf [.sleep t] ++ rest) :
    runRequest 4#3 bl t s =
      { s with opq := 4, blq := bl, argq := t, reqValid := false, ph := .idle, upc := 0, inputs := rest,
               trace := s.trace ++ eventsOf s.addr [.sleep t] ++ [.resp .ok] } := by
  rw [runRequest_completes hr (rest := rest) (by rw [requestProgram_delay]; exact hi), requestProgram_delay]
  rfl

/-- Settles O13: the stray answers dropped, one sleep that ends; or nothing to wait for. -/
theorem delaySleepsAndResponds : Obligations.DelaySleepsAndResponds := by
  intro s bl t rest stray latched hr
  refine ⟨fun ht hi => ⟨false, ?_⟩, ?_⟩
  · have ht : t ≠ 0#16 := ht
    rw [exec_delay, runRequest_delay_stray hr ht hi,
      runRequest_delay_completes (rest := rest) (by exact hr) (by simp [answersOf, ht])]
    simp [eventsOf, ht, latched]
  · rintro rfl
    refine ⟨false, ?_⟩
    rw [exec_delay, runRequest_delay_completes (rest := s.inputs) hr rfl]
    simp [eventsOf, latched]

/-! ## Operations without a write leave the far side alone -/

/-- PORT, the nibble phase and the count of free values are the same. -/
def SameFarSide (s t : State) : Prop := t.port = s.port ∧ t.nph = s.nph ∧ t.draws = s.draws

/-- A request is done, or its micro-program has no write, and the far side is as it was in `s`. -/
structure StoresNothing (s u : State) : Prop where
  farSide : SameFarSide s u
  not_por : u.ph ≠ .por
  no_write : ∀ b, .write b ∉ u.program

/-- Where the micro-program has no write, none is outstanding. -/
theorem StoresNothing.current_ne_write {s u : State} (h : StoresNothing s u) (b : Byte) :
    u.current ≠ some (.write b) :=
  fun hc => h.no_write b (List.mem_of_getElem? (current_some hc).2)

theorem StoresNothing.finish {s u : State} (h : StoresNothing s u) (he : u.atEnd = true) :
    StoresNothing s (finish u) := by
  rcases finish_cases he with ⟨-, e⟩ | ⟨hp, -⟩
  · rw [e]
    exact ⟨h.farSide, by simp, by simp [State.program]⟩
  · exact absurd hp h.not_por

theorem StoresNothing.onInput {s u : State} (h : StoresNothing s u) (hr : u.running = true) (i : Input) :
    (onInput i u).rst = true ∨ StoresNothing s (onInput i u) := by
  rcases onInput_cases i u with ⟨-, -, e⟩ | ⟨-, hrst, -⟩ | ⟨b, -, hc, -⟩ | ⟨b, -, hc, -⟩ | ⟨t, -, -, -, e⟩ |
    ⟨a, l, v, w, e⟩
  · exact .inl (by simp [e])
  · simp [(running_cases hr).1] at hrst
  · exact absurd hc (h.current_ne_write b)
  · exact absurd hc (h.current_ne_write b)
  · exact .inr (e ▸ ⟨h.farSide, h.not_por, h.no_write⟩)
  · exact .inr (e ▸ ⟨h.farSide, h.not_por, h.no_write⟩)

/-- The engine's run over a micro-program without a write stores nothing, unless reset rises. -/
theorem runInputs_stores_nothing {s u : State} (h : StoresNothing s u) (stop : Nat) (ins : List Input) :
    (runInputs stop ins u).rst = true ∨ StoresNothing s (runInputs stop ins u) := by
  refine runInputs_induction (fun v => v.rst = true ∨ StoresNothing s v) ?skip ?fin ?input stop ins u (.inr h)
  case skip => exact fun v hv _ => hv.imp_right fun hv => ⟨hv.farSide, hv.not_por, hv.no_write⟩
  case fin =>
    intro v hv he
    exact hv.imp (by simp) fun hv => hv.finish he
  case input =>
    intro i rest v hv hr _
    have hv := hv.resolve_left (by simp [(running_cases hr).1])
    exact StoresNothing.onInput (u := { v with inputs := rest }) ⟨hv.farSide, hv.not_por, hv.no_write⟩ hr i

/-- An accepted DELAY stores nothing, unless reset rises (R136). -/
theorem runRequest_delay_sameFarSide (bl : Bit) (t : Arg) {s : State}
    (hrst : (runRequest 4#3 bl t s).rst = s.rst) : SameFarSide s (runRequest 4#3 bl t s) := by
  by_cases hr : s.reqReady = true
  · obtain ⟨hrst', -⟩ := (reqReady_iff s).mp hr
    have haccept : StoresNothing s (acceptRequest 4#3 bl t s) :=
      ⟨⟨rfl, rfl, rfl⟩, by simp, by simp [State.program, requestProgram_delay]⟩
    rw [runRequest, if_pos hr] at hrst ⊢
    have hno_reset : ¬(resume (acceptRequest 4#3 bl t s)).rst = true := by simp [hrst, hrst']
    exact ((runInputs_stores_nothing haccept _ _).resolve_left hno_reset).farSide
  · rw [runRequest, if_neg hr]
    exact ⟨rfl, rfl, rfl⟩

/-- A reserved code stores nothing, rejected or waiting (R174). -/
theorem rejectRequest_sameFarSide (op : BitVec 3) (bl : Bit) (arg : Arg) (s : State) :
    SameFarSide s (rejectRequest op bl arg s) := by
  rw [rejectRequest]
  split <;> exact ⟨rfl, rfl, rfl⟩

/-- Settles O39: DELAY by its micro-program without a write, the reserved codes by their rejection. -/
theorem nonStoringOperationsLeaveThePort : Obligations.NonStoringOperationsLeaveThePort := by
  rintro s t i bl arg (rfl | rfl | rfl | rfl) h hrst <;> obtain rfl := Host.Outcome.next.inj h
  · exact runRequest_delay_sameFarSide bl arg hrst
  · exact rejectRequest_sameFarSide 5 bl arg s
  · exact rejectRequest_sameFarSide 6 bl arg s
  · exact rejectRequest_sameFarSide 7 bl arg s

end Sys2Proof.Machine
end

section
/-! PROOF. The power-on reset sequencer (42_por_sequencer.md): the seventeen micro-operations of PORSEQ (R146), how it
ends when every write succeeds and when one fails (R151, R152), and what the HD44780 latches of it (R153). -/

namespace Sys2Proof.Machine

/-! ## The micro-program (R146, R149) -/

/-- The rows of R146's table, for the function-set command `f`. -/
def porseqTable (c : Config) (f : Byte) : List MicroOp := [
  .sleep c.tPwrup,
  .write 0x34, .write 0x30, .sleep c.tRst1,
  .write 0x34, .write 0x30, .sleep c.tRst2,
  .write 0x34, .write 0x30, .sleep c.tRst3,
  .write (pack c.nib4bit 0 0 1), .write (pack c.nib4bit 0 0 0), .sleep c.tMode,
  .write (pack (hiNibble f) 0 c.blPor 1), .write (pack (hiNibble f) 0 c.blPor 0),
  .write (pack (loNibble f) 0 c.blPor 1), .write (pack (loNibble f) 0 c.blPor 0)]

/-- `FS` at a legal line count (R9). -/
theorem functionSet_of_lines {c : Config} {lines : BitVec 3} {f : Byte}
    (h : lines = 1 ∧ f = c.fs1 ∨ lines = 2 ∧ f = c.fs2 ∨ lines = 3 ∧ f = c.fs3 ∨ lines = 4 ∧ f = c.fs4) :
    functionSet c lines = f := by
  rcases h with ⟨rfl, rfl⟩ | ⟨rfl, rfl⟩ | ⟨rfl, rfl⟩ | ⟨rfl, rfl⟩ <;> rfl

/-- `FS(l) > 3`, so the function-set command needs no settling sleep (R146). -/
theorem needsSettling_functionSet {c : Config} (hv : c.Valid) (lines : BitVec 3) :
    needsSettling (functionSet c lines) = false := by
  obtain ⟨-, -, -, -, h1, h2, h3, h4⟩ := hv
  rw [needsSettling, decide_eq_false_iff_not, not_le, functionSet]
  split
  · exact h1
  · exact h2
  · exact h3
  · exact h4

/-- In a valid configuration the list form of R146 is its table. -/
theorem progPorseq_eq_table {c : Config} (hv : c.Valid) (lines : BitVec 3) :
    progPorseq c lines = porseqTable c (functionSet c lines) := by
  rw [progPorseq, progWrcmd, needsSettling_functionSet hv]
  rfl

/-- PORSEQ ends with the low nibble of the function-set command at PORT (R146). -/
theorem portAfter_progPorseq_eq_pack (c : Config) (lines : BitVec 3) (p : Byte) :
    portAfter p (writesOf (progPorseq c lines)) = pack (loNibble (functionSet c lines)) 0 c.blPor 0 := by
  rw [progPorseq, writesOf_append, portAfter_append, writesOf_progWrcmd]
  exact (afterWrites_xfer .high _ _ 0 c.blPor).1

/-! ## How PORSEQ ends (R151) -/

section
variable {s : State} {rest : List Input} (hrst : s.rst = false) (hp : s.ph = .por) (hu : s.upc = 0)
include hrst hp hu

/-- PORSEQ with every write answered `success` and every sleep ended: PH_IDLE, without a response. -/
theorem exec_porseq_completes (hi : s.inputs = answersOf (progPorseq s.cfg s.linesq) ++ rest) :
    exec (.porseq s.linesq) s = .next { s with
      ph := .idle, upc := 0, port := pack (loNibble (functionSet s.cfg s.linesq)) 0 s.cfg.blPor 0, nph := .high
      trace := s.trace ++ eventsOf s.addr (progPorseq s.cfg s.linesq)
      inputs := rest } := by
  have hprog : s.program = progPorseq s.cfg s.linesq := by simp [State.program, hp]
  rw [exec_porseq hrst hp hu, resume, runTo,
    runInputs_completes _ rest s (running_of_por hrst hp) (by simp [hprog, hu]) (by simp [hu]) hi,
    performOps_eq, portAfter_progPorseq_eq_pack, finish_por (by exact hp)]
  rfl

/-- PORSEQ whose write after `pre` is the first to fail: PH_FAIL, without a response. -/
theorem exec_porseq_fails {pre post : List MicroOp} {b : Byte}
    (hsplit : progPorseq s.cfg s.linesq = pre ++ .write b :: post)
    (hi : s.inputs = answersOf pre ++ .bwDone true :: rest) :
    exec (.porseq s.linesq) s = .next { s with
      ph := .fail, upc := 0, port := Config.freePort s.draws, nph := .unknown, draws := s.draws + 1
      trace := s.trace ++ eventsOf s.addr pre ++ [.writeFailed s.addr b]
      inputs := rest } := by
  have hprog : s.program = pre ++ .write b :: post := by simp [State.program, hp, hsplit]
  rw [exec_porseq hrst hp hu, resume, runTo,
    runInputs_fails pre post b _ rest s (running_of_por hrst hp) (by simp [hprog, hu]) (by simp [hprog, hu]) hi,
    performOps_eq, writeFailed_por (by exact hp)]

end

/-- Settles O16: the micro-program is the table, and the engine performs it to its end. -/
theorem porseqRunsItsSeventeenMicroOperations : Obligations.PorseqRunsItsSeventeenMicroOperations := by
  intro s lines f rest m p hi lo prog hrst hp hu hlines hv hf hin
  subst hlines
  have hfs := functionSet_of_lines hf
  have hprog : progPorseq s.cfg s.linesq = prog := by rw [progPorseq_eq_table hv, hfs]; rfl
  have hexec := exec_porseq_completes hrst hp hu (rest := rest) (by rw [hprog]; exact hin)
  rw [hprog, hfs] at hexec
  exact ⟨_, .high, hexec, rfl, rfl⟩

/-- Settles O17: the table split at the failed write; the engine performs what stands before it and stops. -/
theorem porseqFailsAtTheFirstFailedWrite : Obligations.PorseqFailsAtTheFirstFailedWrite := by
  intro s lines f k b rest m p hi lo prog hrst hp hu hlines hv hf hk hin
  subst hlines
  have hprog : progPorseq s.cfg s.linesq = prog := by rw [progPorseq_eq_table hv, functionSet_of_lines hf]; rfl
  obtain ⟨hlt, hget⟩ := List.getElem?_eq_some_iff.mp hk
  have hsplit : prog = prog.take k ++ .write b :: prog.drop (k + 1) := by
    rw [← hget, ← List.drop_eq_getElem_cons hlt, List.take_append_drop]
  exact ⟨_, .unknown, exec_porseq_fails hrst hp hu (hprog.trans hsplit) hin, rfl, rfl, rfl⟩

/-! ## The latch view (R153) -/

/-- Settles O21: each strobe pair latches its nibble whatever PORT held before it, and the sleeps write nothing. -/
theorem porseqLatchViewDoesNotDependOnPort : Obligations.PorseqLatchViewDoesNotDependOnPort := by
  intro p cfg lines _
  simp only [progPorseq, progWrinit, List.append_assoc, List.cons_append, List.nil_append, writesOf,
    latchView_strobe, writesOf_progWrcmd, latchView_xfer]
  rfl

end Sys2Proof.Machine
end

section
/-! PROOF. Exceptions and the ports (60_exceptions.md): the two errors (R172, R174, R182), a bus write that is never
answered (R178), and the request, response, bus and timer channels (R188 to R192). -/

namespace Sys2Proof.Machine

/-! ## No fault (R170) -/

/-- Settles O35: every operation, and a step without one, answers a next state. -/
theorem everyStepAnswersANextState : Obligations.EveryStepAnswersANextState := step_next

/-! ## Rejected and waiting requests (R174, R188) -/

theorem rejectRequest_of_ready {s : State} (hr : s.reqReady = true) (op : BitVec 3) (bl : Bit) (arg : Arg) :
    rejectRequest op bl arg s = respond .callerContractViolation (latchRequest op bl arg s) := if_pos hr

/-- Settles O14: each reserved code is rejected, which writes the latches and the response. -/
theorem reservedCodesAnswerCallerContractViolation : Obligations.ReservedCodesAnswerCallerContractViolation := by
  intro s bl arg hr answered
  have hreject (op : BitVec 3) : rejectRequest op bl arg s = answered op false := rejectRequest_of_ready hr op bl arg
  exact ⟨⟨false, congrArg Host.Outcome.next (hreject 5)⟩, ⟨false, congrArg Host.Outcome.next (hreject 6)⟩,
    ⟨false, congrArg Host.Outcome.next (hreject 7)⟩⟩

/-- Settles O27: a request operation is run or rejected, and both wait where `req_ready` is 0. -/
theorem requestsWaitOutsideIdle : Obligations.RequestsWaitOutsideIdle := by
  refine fun s i => ⟨(reqReady_iff s).trans and_comm, fun hi hr => ?_⟩
  obtain ⟨op, bl, arg, hexec⟩ := exec_requestable hi
  simp [hexec, runRequest, rejectRequest, hr]

/-! ## A failed bus write (R172, R182) -/

theorem onInput_busError {s : State} {b : Byte} (hc : s.current = some (.write b)) :
    onInput (.bwDone true) s = writeFailed b s := by
  simp [onInput, answerWrite, hc]

/-- A failed write of a request (R172). -/
theorem writeFailed_busy {s : State} (hp : s.ph = .busy) (b : Byte) :
    writeFailed b s =
      { s with ph := .idle, upc := 0, port := Config.freePort s.draws, nph := .unknown, draws := s.draws + 1,
               trace := s.trace ++ [.writeFailed s.addr b, .resp .busTransactionError] } := by
  simp [writeFailed, raiseBusError, respond, hp]

/-- Settles O22: the error entry of a request leaves PH_IDLE, where nothing runs. -/
theorem busErrorEndsARequest : Obligations.BusErrorEndsARequest := by
  intro s b stop later hp hout t
  exact ⟨(onInput_busError (current_of_bwOut hout)).trans (writeFailed_busy hp b),
    runInputs_halted (not_running_of_ph (.inl rfl)) stop later⟩

/-- Settles O23: the error entry of PORSEQ leaves PH_FAIL, where nothing runs. -/
theorem busErrorEndsPorseqInFail : Obligations.BusErrorEndsPorseqInFail := by
  intro s b stop later hp hout t
  exact ⟨(onInput_busError (current_of_bwOut hout)).trans (writeFailed_por hp b), rfl,
    runInputs_halted (not_running_of_ph (.inr rfl)) stop later⟩

/-! ## The bus and timer channels (R192) -/

/-- The input is the answer that a micro-operation of this kind waits for. -/
def MicroOp.answeredBy : MicroOp → Input → Bool
  | .write _, .bwDone _ => true
  | .sleep _, .tmDone => true
  | _, _ => false

/-- While a micro-operation is performed, an input that is neither its answer nor the rise of reset changes port
levels only. -/
theorem onInput_not_answered {s : State} {op : MicroOp} {i : Input} (hc : s.current = some op)
    (hi : op.answeredBy i = false) (hrise : i ≠ .rst true) :
    ∃ a l v w, onInput i s = { s with addrI := a, linesI := l, reqValid := v, req := w } := by
  have not_answer : ∀ op', s.current = some op' → op'.answeredBy i = false := by
    intro op' hc'
    obtain rfl : op = op' := Option.some.inj (hc.symm.trans hc')
    exact hi
  rcases onInput_cases i s with ⟨rfl, -⟩ | ⟨-, hrst, -⟩ | ⟨b, rfl, hb, -⟩ | ⟨b, rfl, hb, -⟩ | ⟨t, rfl, -, ht, -⟩ | h
  · exact absurd rfl hrise
  · simp [(running_cases (current_some hc).1).1] at hrst
  · exact nomatch not_answer _ hb
  · exact nomatch not_answer _ hb
  · exact nomatch not_answer _ ht
  · exact h

theorem write_not_answered {i : Input} (herr : i ≠ .bwDone true) (hok : i ≠ .bwDone false) (b : Byte) :
    (MicroOp.write b).answeredBy i = false := by
  cases i with
  | bwDone err => cases err <;> contradiction
  | rst _ | straps _ _ | offer _ | withdraw | tmDone => rfl

theorem sleep_not_answered {i : Input} (hend : i ≠ .tmDone) (t : Arg) : (MicroOp.sleep t).answeredBy i = false := by
  cases i with
  | tmDone => contradiction
  | rst _ | straps _ _ | offer _ | withdraw | bwDone _ => rfl

theorem current_of_tmOut {s : State} {t : Arg} (h : s.tmOut = some t) : s.current = some (.sleep t) := by
  unfold State.tmOut at h
  split at h
  case h_1 => simp at h
  case h_2 => split at h <;> simp_all
  case h_3 => simp at h

theorem tmOut_of_current {s : State} {t : Arg} (hc : s.current = some (.sleep t)) (ht : t ≠ 0#16) :
    s.tmOut = some t := by
  simp [State.tmOut, hc, ht]

/-- One micro-operation is performed at a time, so one channel is in use at a time. -/
theorem bwOut_eq_none_or_tmOut_eq_none (s : State) : s.bwOut = none ∨ s.tmOut = none := by
  rcases hc : s.current with _ | _ | _ <;> simp [State.bwOut, State.tmOut, hc]

theorem onInput_bwDone_of_no_write {s : State} (h : s.bwOut = none) (err : Bool) : onInput (.bwDone err) s = s := by
  rcases hc : s.current with _ | b | t
  · simp [onInput, answerWrite, hc]
  · simp [bwOut_of_current hc] at h
  · exact onInput_bwDone_of_sleep hc err

theorem onInput_tmDone_of_no_sleep {s : State} (h : s.tmOut = none) : onInput .tmDone s = s := by
  rcases hc : s.current with _ | b | t
  · simp [onInput, endSleep, hc]
  · simp [onInput, endSleep, hc]
  · have ht : t = 0#16 := by
      by_contra ht
      simp [tmOut_of_current hc ht] at h
    simp [onInput, endSleep, hc, ht]

/-- Settles O26: one micro-operation at a time, and only its answer or the rise of reset moves it. -/
theorem busAndTimerChannels : Obligations.BusAndTimerChannels := by
  intro s i err
  refine ⟨bwOut_eq_none_or_tmOut_eq_none s, fun herr hok hrise hout => ?_, fun hend hrise hout => ?_,
    fun hnone => onInput_bwDone_of_no_write hnone err, onInput_tmDone_of_no_sleep⟩
  · obtain ⟨⟨a, b⟩, hout⟩ := Option.ne_none_iff_exists'.mp hout
    obtain ⟨_, _, _, _, e⟩ := onInput_not_answered (current_of_bwOut hout) (write_not_answered herr hok b) hrise
    rw [e]; rfl
  · obtain ⟨t, hout⟩ := Option.ne_none_iff_exists'.mp hout
    obtain ⟨_, _, _, _, e⟩ := onInput_not_answered (current_of_tmOut hout) (sleep_not_answered hend t) hrise
    rw [e]; rfl

/-! ## A bus write that is never answered (R178) -/

/-- While a micro-operation is performed, a step is the engine's run to a stop beyond it. -/
theorem step_of_current {s : State} {op : MicroOp} (hc : s.current = some op) :
    ∃ stop, s.upc.toNat < stop ∧ step s = .next (runTo stop s) := by
  have hlt := upc_lt_of_current hc
  obtain ⟨hrst, hp | hp⟩ := running_cases (current_some hc).1
  · exact ⟨_, hlt, step_of_busy hrst hp⟩
  · rcases step_por_cases hrst hp with h | ⟨n, -, h⟩
    · exact ⟨_, hlt, h⟩
    · exact ⟨_, Nat.lt_add_of_pos_right (by simp [progWrinit, strobe]), h⟩

/-- Without inputs a micro-operation that waits goes on waiting. -/
theorem runTo_waiting_of_no_inputs {s : State} {op : MicroOp} (hc : s.current = some op) (h0 : op ≠ .sleep 0#16)
    (hi : s.inputs = []) (stop : Nat) : runTo stop s = s := by
  rw [runTo, hi]
  exact settleTo_waiting hc h0 stop

/-- The engine, waiting for a micro-operation that no input answers, uses up the inputs and changes port levels
only. -/
theorem runTo_not_answered {stop : Nat} {op : MicroOp} (h0 : op ≠ .sleep 0#16) (ins : List Input) (s : State)
    (hi : s.inputs = ins) (hc : s.current = some op) (hs : s.upc.toNat < stop)
    (hno : ∀ i ∈ ins, op.answeredBy i = false ∧ i ≠ .rst true) :
    ∃ a l v w, runTo stop s = { s with inputs := [], addrI := a, linesI := l, reqValid := v, req := w } := by
  induction ins generalizing s with
  | nil =>
    refine ⟨s.addrI, s.linesI, s.reqValid, s.req, ?_⟩
    rw [runTo_waiting_of_no_inputs hc h0 hi, ← hi]
  | cons i rest ih =>
    obtain ⟨⟨hans, hrise⟩, hrest⟩ := List.forall_mem_cons.mp hno
    obtain ⟨a, l, v, w, e⟩ := onInput_not_answered (s := { s with inputs := rest }) hc hans hrise
    rw [runTo, hi, runInputs_waiting hc h0 hs, e]
    exact ih { s with inputs := rest, addrI := a, linesI := l, reqValid := v, req := w } rfl hc hs hrest

theorem not_reqReady_of_running {s : State} (hr : s.running = true) : s.reqReady = false := by
  obtain ⟨-, hp | hp⟩ := running_cases hr <;> simp [State.reqReady, hp]

/-- Settles O25: the step is the engine waiting for the write's answer, which is not among the inputs. -/
theorem unansweredWriteBlocksTheBlock : Obligations.UnansweredWriteBlocksTheBlock := by
  intro s t b hout hno hstep
  have hc := current_of_bwOut hout
  have hready := not_reqReady_of_running (current_some hc).1
  obtain ⟨stop, hlt, hrun⟩ := step_of_current hc
  obtain rfl := Host.Outcome.next.inj (hrun.symm.trans hstep)
  obtain ⟨a, l, v, w, e⟩ := runTo_not_answered (by simp) s.inputs s rfl hc hlt fun i hi =>
    have ⟨herr, hok, hrise⟩ := hno i hi
    ⟨write_not_answered herr hok b, hrise⟩
  have hsame : s.inputs = [] → runTo stop s = s := fun hi => runTo_waiting_of_no_inputs hc (by simp) hi stop
  rw [e] at hsame ⊢
  exact ⟨hout, rfl, rfl, rfl, rfl, hready, rfl, hsame⟩

/-! ## The client's offer (R190, R191) -/

theorem answerWrite_request (err : Bool) (s : State) :
    (answerWrite err s).req = s.req ∧ (answerWrite err s).reqValid = s.reqValid := by
  unfold answerWrite
  split
  · cases err <;> simp
  · simp
  · simp

theorem endSleep_request (s : State) : (endSleep s).req = s.req ∧ (endSleep s).reqValid = s.reqValid := by
  unfold endSleep
  split
  · simp
  · split <;> simp
  · simp

/-- An input that is no offer leaves `req` alone and does not raise `req_valid`. -/
theorem onInput_not_offer {i : Input} (hi : ∀ w, i ≠ .offer w) (s : State) :
    (onInput i s).req = s.req ∧ (s.reqValid = false → (onInput i s).reqValid = false) := by
  cases i with
  | offer w => exact absurd rfl (hi w)
  | rst level => cases level <;> simp only [onInput] <;> split <;> simp
  | straps a l => exact ⟨rfl, id⟩
  | withdraw => exact ⟨rfl, fun _ => rfl⟩
  | bwDone err => simp [onInput, answerWrite_request]
  | tmDone => simp [onInput, endSleep_request]

/-- The offer is used up, `req` holds `w`, and no offer is to come. -/
structure OfferUsedUp (w : Request) (s : State) : Prop where
  withdrawn : s.reqValid = false
  req : s.req = w
  no_offer : ∀ w', .offer w' ∉ s.inputs

theorem OfferUsedUp.runTo {w : Request} {s : State} (h : OfferUsedUp w s) (stop : Nat) :
    OfferUsedUp w (runTo stop s) := by
  refine runTo_induction (OfferUsedUp w) stop ?skip ?fin ?input s h
  case skip => exact fun u hu _ _ => ⟨hu.withdrawn, hu.req, hu.no_offer⟩
  case fin => exact fun u hu _ => ⟨by simpa using hu.withdrawn, by simpa using hu.req, by simpa using hu.no_offer⟩
  case input =>
    intro i rest op u hu hi _ _ _
    have hno : ∀ w', .offer w' ∉ i :: rest := hi ▸ hu.no_offer
    have hnot : ∀ w', i ≠ .offer w' := fun w' e => hno w' (by simp [e])
    obtain ⟨hreq, hvalid⟩ := onInput_not_offer hnot { u with inputs := rest }
    refine ⟨hvalid hu.withdrawn, hreq.trans hu.req, ?_⟩
    rw [onInput_inputs]
    exact fun w' hm => hno w' (List.mem_cons_of_mem i hm)

/-- Settles O18: the latches take the request and the offer with it, and the engine's run brings no other. -/
theorem acceptanceUsesUpTheOffer : Obligations.AcceptanceUsesUpTheOffer := by
  intro s i hi hr hno
  obtain ⟨op, bl, arg, hexec⟩ := exec_requestable hi
  refine ⟨_, hexec s, ?_⟩
  split
  · have haccept : OfferUsedUp s.req (acceptRequest op bl arg s) := ⟨rfl, rfl, hno⟩
    have hrun := haccept.runTo (acceptRequest op bl arg s).program.length
    rw [runRequest, if_pos hr]
    exact ⟨hrun.withdrawn, hrun.req⟩
  · rw [rejectRequest_of_ready hr]
    exact ⟨rfl, rfl⟩

/-! ## One response (R191) -/

theorem eventsOf_no_response (addr : DevAddr) (ops : List MicroOp) :
    ∀ e ∈ eventsOf addr ops, e.isResponse = false := by
  induction ops with
  | nil => simp [eventsOf]
  | cons op ops ih =>
    cases op with
    | write b => simpa [eventsOf, Event.isResponse] using ih
    | sleep t => by_cases ht : t = 0#16 <;> simpa [eventsOf, Event.isResponse, ht] using ih

theorem cutByReset_no_response (addr : DevAddr) (op : MicroOp) : ∀ e ∈ cutByReset addr op, e.isResponse = false := by
  cases op <;> simp [cutByReset, Event.isResponse]

/-- Settles O28: by how the events of a request can end, after a beginning of its micro-program without a response. -/
theorem oneResponsePerAcceptedRequest : Obligations.OneResponsePerAcceptedRequest := by
  intro s t i hi hr h
  obtain ⟨w, -, rfl⟩ := (decodeOfEncodeIsTheInstruction i).1 hi
  obtain ⟨done, left, tail, -, htrace, hend⟩ := requestEventsFollowTheMicroProgram s t w hr h
  have hdone := eventsOf_no_response s.addr done
  refine ⟨eventsOf s.addr done ++ tail, by rw [htrace, List.append_assoc], ?_⟩
  rcases hend with ⟨hrst, hp, -, -, -, rfl⟩ | ⟨hrst, hp, -, -, rfl⟩ | ⟨hrst, hp, b, -, -, rfl⟩ |
    ⟨hrst, hp, -, -, rfl⟩ | ⟨hrst, hp, -, op, -, -, rfl⟩
  · exact .inr (.inl ⟨hrst, hp, by simpa using hdone⟩)
  · exact .inl ⟨hrst, hp, _, _, rfl, hdone⟩
  · refine .inl ⟨hrst, hp, eventsOf s.addr done ++ [.writeFailed s.addr b], .busTransactionError, by simp, ?_⟩
    exact List.forall_mem_append.mpr ⟨hdone, by simp [Event.isResponse]⟩
  · exact .inl ⟨hrst, hp, _, _, rfl, hdone⟩
  · exact .inr (.inr ⟨hrst, hp, List.forall_mem_append.mpr ⟨hdone, cutByReset_no_response s.addr op⟩⟩)

end Sys2Proof.Machine
end

section
/-! PROOF. Reset (70_reset_and_hazards.md): what its rise abandons (R201), what its fall captures and starts (R202). -/

namespace Sys2Proof.Machine

/-! ## The rise of reset (R201) -/

theorem onInput_rst_rises {s : State} (h : s.rst = false) : onInput (.rst true) s = assertReset s := by
  simp [onInput, h]

theorem bwOut_of_rst {s : State} (h : s.rst = true) : s.bwOut = none := by
  simp [State.bwOut, current_of_not_running (not_running_of_rst h)]

theorem tmOut_of_rst {s : State} (h : s.rst = true) : s.tmOut = none := by
  simp [State.tmOut, current_of_not_running (not_running_of_rst h)]

/-- Settles O29: the fields are those of `assertReset`, and in reset nothing is outstanding that an answer could
end. -/
theorem resetAbandonsTheOperation : Obligations.ResetAbandonsTheOperation := by
  intro s hrst t
  have ht : t = assertReset s := onInput_rst_rises hrst
  have hrise : t.rst = true := ht ▸ assertReset_rst s
  have hpor : t.ph = .por := ht ▸ assertReset_ph s
  have hbus : t.bwOut = none := bwOut_of_rst hrise
  have htimer : t.tmOut = none := tmOut_of_rst hrise
  exact ⟨hrise, hpor, ht ▸ assertReset_upc s, by simp [State.initd, hpor], by simp [State.faild, hpor],
    by simp [State.reqReady, hrise], hbus, htimer, ht ▸ assertReset_addr s, ht ▸ assertReset_linesq s,
    ht ▸ assertReset_nph s, ht ▸ assertReset_extends s, onInput_bwDone_of_no_write hbus,
    onInput_tmDone_of_no_sleep htimer⟩

/-! ## The fall of reset (R202) -/

theorem onInput_rst_falls {s : State} (h : s.rst = true) : onInput (.rst false) s = releaseReset s := by
  simp [onInput, h]

/-- The clamp of R30 as a comparison of numbers. -/
theorem clampLines_eq_ofNat (l : BitVec 3) :
    clampLines l = BitVec.ofNat 3 (if l.toNat = 0 then 1 else if 4 < l.toNat then 4 else l.toNat) := by
  revert l; decide

/-- Settles O30: the released state stands at UPC 0 of PH_POR, where a step runs PORSEQ, and the straps are ports of
their own. -/
theorem resetReleaseCapturesTheStraps : Obligations.ResetReleaseCapturesTheStraps := by
  intro s hrst l t
  have ht : releaseReset s = t := by
    rw [releaseReset, clampLines_eq_ofNat]
    rfl
  obtain ⟨-, step_por_start, -⟩ := stepRunsTheOperationAtHand t
  exact ⟨(onInput_rst_falls hrst).trans ht, step_por_start rfl rfl rfl, fun _ _ => ⟨rfl, rfl⟩⟩

end Sys2Proof.Machine
end

section
/-! PROOF. Worked request words (95_test_vectors.md sections 3 to 5), decoded by the rule of their operation code (R71,
R78). -/

namespace Sys2Proof.Machine

/-- Settles O5: each word is the request word of its code, backlight bit and argument, so the decoding rule of that code
applies. -/
theorem writtenOutWordsDecode : Obligations.WrittenOutWordsDecode :=
  ⟨decodeRequest_wrcmd_word 1 0x0028, decodeRequest_wrdata_word 1 0x0041, decodeRequest_blon_word 1 0xFFFF,
    decodeRequest_bloff_word 0 0, decodeRequest_delay_word 0 40, decodeRequest_rsvd5_word 0 0⟩

end Sys2Proof.Machine
end
